-- ==== Sys2Proof/Word.lean ====
section
/-! DEFINITION. The widths of CPFM (00_scope.md R6) as types, and nothing else. -/

namespace Sys2Proof

/-- One byte of a slot laid out as bytes (20_memory.md R42). -/
abbrev Byte := BitVec 8

/-- 16 bits: an immediate, one half of `KSCALE`, one half of a slot (`DEV_BITS`, `IQ_BITS`). -/
abbrev Half := BitVec 16

/-- 32 bits: a command word, `KSCALE`, a buffer slot, a status word (`CMD_BITS`, `K_BITS`, `SLOT_BITS`). -/
abbrev Word := BitVec 32

/-- 24 bits: `WR_PTR`, `VCNT` and the sink's slot operand (`PTR_BITS`). -/
abbrev Count := BitVec 24

/-- 48 bits: the phase accumulator, 2^48 units to the turn (`ACC_BITS`). -/
abbrev Phase := BitVec 48

/-- 10 bits: an address of the sin/cos table (`LUT_BITS`). -/
abbrev Index := BitVec 10

end Sys2Proof
end

