-- ==== Sys2Proof/Syntax.lean ====
section
/-! DEFINITION. The five commands (30_encoding.md R62), the codes of the faults (60_exceptions.md R131), the sink's
operations (43_sink_port.md R121, R123) and the agents (10_state.md R37). -/

namespace Sys2Proof

/-- A well-formed command word, decoded (30_encoding.md R65): one constructor per row of the opcode table. -/
inductive Instr where
  /-- `MOD dev`: modulate one deviation sample; `dev` is the integer `sint_16(imm16)` (40_modulate.md R81). -/
  | mod (dev : Int)
  /-- `LDKL v`: load the low half of `KSCALE` with a 16-bit pattern (41_config.md R101). -/
  | ldkl (v : Half)
  /-- `LDKH v`: load the high half of `KSCALE` (41_config.md R102). -/
  | ldkh (v : Half)
  /-- `CLRPH`: clear the phase accumulator (41_config.md R103). -/
  | clrph
  /-- `FLUSH`: end the stream and hand over a partial buffer (42_stream_control.md R111). -/
  | flush
  deriving DecidableEq, Repr

/-- The five defined values of `op` (30_encoding.md R62). -/
inductive Opcode where
  | mod | ldkl | ldkh | clrph | flush
  deriving DecidableEq, Repr

/-- The fault codes CPFM produces (60_exceptions.md R131); no fault is the absence of a code (93 U13). -/
inductive FaultCode where
  /-- Code 1, `E_ILLOP`: `op` is 0 or 6 to 15. -/
  | illop
  /-- Code 2, `E_RSVD`: a reserved field is not zero. -/
  | rsvd
  /-- Code 3, `E_STOPPED`: a well-formed `MOD` or `FLUSH` while `EOS = 1` or `SFAIL = 1`. -/
  | stopped
  deriving DecidableEq, Repr

/-- An operation of the sink agent (43_sink_port.md): not a command word, and without an encoding. -/
inductive SinkOp where
  /-- `RD(slot)`: read one slot of the buffer (R121). -/
  | rd (slot : Count)
  /-- `REL(ok)`: end the push and give the buffer back (R123). -/
  | rel (ok : Bool)
  deriving DecidableEq, Repr

/-- The three agents whose atomic steps make up a run (00_scope.md R10, 10_state.md R37). -/
inductive Agent where
  | command | sink | reset
  deriving DecidableEq, Repr

end Sys2Proof
end

