-- ==== Sys2Proof/Decode.lean ====
section
/-! DEFINITION. From a command word to a command or a named rejection (30_encoding.md R61 to R65), and back (R68). -/

namespace Sys2Proof

/-- `op = w[31:28]` (30_encoding.md R61). -/
def opField (w : Word) : BitVec 4 := w.extractLsb' 28 4

/-- `rsv = w[27:16]`. -/
def rsvField (w : Word) : BitVec 12 := w.extractLsb' 16 12

/-- `imm16 = w[15:0]`. -/
def immField (w : Word) : Half := w.extractLsb' 0 16

/-- The value of `op` that names a command (30_encoding.md R62). -/
def opcodeBits : Opcode → BitVec 4
  | .mod => 0x1
  | .ldkl => 0x2
  | .ldkh => 0x3
  | .clrph => 0x4
  | .flush => 0x5

/-- The command that a value of `op` names: none for `0x0` and for `0x6` to `0xF` (30_encoding.md R64 a). -/
def opcodeOf (op : BitVec 4) : Option Opcode :=
  if op = 0x1 then some .mod
  else if op = 0x2 then some .ldkl
  else if op = 0x3 then some .ldkh
  else if op = 0x4 then some .clrph
  else if op = 0x5 then some .flush
  else none

/-- `CLRPH` and `FLUSH` take no immediate: theirs must be zero (30_encoding.md R61). -/
def immMustBeZero : Opcode → Bool
  | .mod => false
  | .ldkl => false
  | .ldkh => false
  | .clrph => true
  | .flush => true

/-- The command of an opcode and an immediate: signed for `MOD`, a bare pattern for `LDKL` and `LDKH` (30_encoding.md R63). -/
def withImm : Opcode → Half → Instr
  | .mod, imm => .mod imm.toInt
  | .ldkl, imm => .ldkl imm
  | .ldkh, imm => .ldkh imm
  | .clrph, _ => .clrph
  | .flush, _ => .flush

/-- What the decoder answers. -/
inductive Decoded where
  /-- The word is the command. -/
  | ok (i : Instr)
  /-- The word is no command; executing it raises the fault with this code (30_encoding.md R65). -/
  | illegal (c : FaultCode)
  deriving DecidableEq, Repr

/-- The decoder: total on the 2^32 words, its checks in the order of 30_encoding.md R64. -/
def decode (w : Word) : Decoded :=
  match opcodeOf (opField w) with
  | none => .illegal .illop
  | some k =>
    if rsvField w ≠ 0 then .illegal .rsvd
    else if immMustBeZero k = true ∧ immField w ≠ 0 then .illegal .rsvd
    else .ok (withImm k (immField w))

/-- The opcode of a command. -/
def opcodeOfInstr : Instr → Opcode
  | .mod _ => .mod
  | .ldkl _ => .ldkl
  | .ldkh _ => .ldkh
  | .clrph => .clrph
  | .flush => .flush

/-- The immediate of a command; `tc_16(dev)` for `MOD` (40_modulate.md R81). -/
def immOfInstr : Instr → Half
  | .mod dev => BitVec.ofInt 16 dev
  | .ldkl v => v
  | .ldkh v => v
  | .clrph => 0
  | .flush => 0

/-- The word of a command: `{op, rsv = 0, imm16}` (30_encoding.md R61, R68). -/
def encode (i : Instr) : Word := (opcodeBits (opcodeOfInstr i) ++ (0 : BitVec 12)) ++ immOfInstr i

/-- The pseudo-instruction `LDK k`: the low half, then the high half (30_encoding.md R69). -/
def expandLdk (k : Word) : List Instr := [.ldkl (k.extractLsb' 0 16), .ldkh (k.extractLsb' 16 16)]

/-- A word from its four bytes in listing order, little-endian (20_memory.md R43: a convention of listings only; inside
CPFM a command word is presented whole and has no byte order). -/
def wordOfBytes (b0 b1 b2 b3 : Byte) : Word := ((b3 ++ b2) ++ b1) ++ b0

/-- A command stream printed as bytes, read as words (20_memory.md R43). The spec says nothing of a number of bytes that is
no multiple of four. DESIGN CHOICE (log entry 16), safe: the one to three bytes left over give no word. -/
def wordsOfBytes : List Byte → List Word
  | b0 :: b1 :: b2 :: b3 :: rest => wordOfBytes b0 b1 b2 b3 :: wordsOfBytes rest
  | _ => []

/-- The deviation that two input bytes, `b0` first, stand for: `sint_16({b1, b0})` (20_memory.md R43). -/
def deviationOfBytes (b0 b1 : Byte) : Int := (b1 ++ b0 : Half).toInt

/-- The command the decoder reads from the low `nbits` bits of `w` (a command has 32 bits; higher ones are 0). -/
def decodeTableWord (nbits w : Nat) : Option Instr :=
  match decode (BitVec.ofNat 32 (w % 2 ^ nbits)) with
  | .ok i => some i
  | .illegal _ => none

end Sys2Proof
end

