-- ==== Sys2Proof/Config.lean ====
section
/-! DEFINITION. What an implementation of CPFM fixes (00_scope.md R7, 10_state.md R36), and the one value the spec leaves
unspecified. -/

namespace Sys2Proof

/-- The open parameters of 00_scope.md R7. They are no state: every step leaves them alone. The state carries them, so
that a statement about every state is a statement about every configuration (DESIGN CHOICE, log entry 3). -/
structure Config where
  /-- `AMP`, the amplitude the table is built for. -/
  amp : Nat
  /-- `BUF_CAP`, the number of slots of the output buffer. -/
  bufCap : Nat
  /-- `K_RESET`, the value of `KSCALE` after reset. -/
  kReset : Word
  /-- `QW[0]` to `QW[256]`, the first quarter of the sine table, from which 20_memory.md R48 P3 and P4 give `SIN_ROM` and
  `COS_ROM` whole (DEDUCED, log entry 4). -/
  quarter : List Nat
  deriving DecidableEq, Repr

/-- The byte that address `addr` of the buffer (layout of 20_memory.md R42) holds after the reset number `epoch` and
before anything has written it: unspecified (70_reset_and_hazards.md R150, 93 U6), so a free value (log entry 2). -/
opaque Config.unwrittenByte (epoch addr : Nat) : Byte

end Sys2Proof
end

