-- ==== Sys2Proof/Machine/Operands.lean ====
section
/-! DEFINITION. The datapath of CPFM on its operands: the integrator and accumulator (40_modulate.md R82), the table
(20_memory.md R47, R48; R83), the packing of a slot (10_state.md R24) and the halves of `KSCALE` (41_config.md R101, R102). -/

namespace Sys2Proof.Machine

/-- `inc`, the exact integer product of a signed deviation and the unsigned tuning constant (40_modulate.md R82). -/
def phaseIncrement (dev : Int) (k : Word) : Int := dev * (k.toNat : Int)

/-- `acc1 = (uint(ACC) + inc) mod 2^48`, with the floor modulus: carry and borrow are dropped (40_modulate.md R82). -/
def nextPhase (acc : Phase) (dev : Int) (k : Word) : Phase :=
  BitVec.ofInt 48 ((acc.toNat : Int) + phaseIncrement dev k)

/-- `idx`, the top ten bits of the accumulator: `ACC[47:38]`, truncated (40_modulate.md R83). -/
def tableIndex (acc : Phase) : Index := acc.extractLsb' 38 10

/-- `QW[j]` (20_memory.md R48 P4). -/
def quarterEntry (c : Config) (j : Nat) : Int := (c.quarter.getD j 0 : Nat)

/-- `SIN_ROM[k]`, from the quarter table by the symmetry of 20_memory.md R48 P4. -/
def sinRom (c : Config) (k : Index) : Int :=
  let j := k.toNat % 256
  match k.toNat / 256 with
  | 0 => quarterEntry c j
  | 1 => quarterEntry c (256 - j)
  | 2 => - quarterEntry c j
  | _ => - quarterEntry c (256 - j)

/-- `COS_ROM[k] = SIN_ROM[(k + 256) mod 1024]` (20_memory.md R48 P3). -/
def cosRom (c : Config) (k : Index) : Int := sinRom c (k + 256)

/-- A slot of the buffer: `{tc_16(Q), tc_16(I)}`, `I` in the low half (10_state.md R24, R25). -/
def packPair (i q : Int) : Word := BitVec.ofInt 16 q ++ BitVec.ofInt 16 i

/-- The slot value of one table entry. -/
def samplePair (c : Config) (k : Index) : Word := packPair (cosRom c k) (sinRom c k)

/-- The in-phase half of a slot. -/
def slotI (v : Word) : Half := v.extractLsb' 0 16

/-- The quadrature half of a slot. -/
def slotQ (v : Word) : Half := v.extractLsb' 16 16

/-- `{KSCALE[31:16], v}` (41_config.md R101). -/
def withLowHalf (k : Word) (v : Half) : Word := (k.extractLsb' 16 16 : Half) ++ v

/-- `{v, KSCALE[15:0]}` (41_config.md R102). -/
def withHighHalf (k : Word) (v : Half) : Word := v ++ (k.extractLsb' 0 16 : Half)

/-- Byte number `n` of a slot in the layout of 20_memory.md R42: I low, I high, Q low, Q high. -/
def slotByte (v : Word) (n : Nat) : Byte := v.extractLsb' (8 * n) 8

/-- A slot from its four bytes in the layout of 20_memory.md R42. -/
def slotOfBytes (b0 b1 b2 b3 : Byte) : Word := ((b3 ++ b2) ++ b1) ++ b0

end Sys2Proof.Machine
end

