-- ==== Sys2Proof/Machine/State.lean ====
section
/-! DEFINITION. The state of CPFM (10_state.md R38), the reasons a step can stop, and the state after reset (R150). -/

namespace Sys2Proof.Machine

/-- The output buffer as bytes: slot `s` at the addresses `4s` to `4s + 3` (20_memory.md R42). A list of the bytes written
since the last reset, addresses strictly rising; an address that is not listed has not been written and has no value here
(log entries 1 and 2). -/
abbrev Memory := List Host.Cell

/-- The one canonical form of a memory: addresses strictly rising. An unlisted address has no value, so no listed byte can
equal what an unlisted one reads as. -/
def Memory.wf : Memory → Bool
  | [] => true
  | [_] => true
  | c :: d :: m => decide (c.1 < d.1) && Memory.wf (d :: m)

/-- The state. `acc` to `errw` are the spec's elements (10_state.md R22 to R31, complete by R38). `cfg` carries the
parameters (R36, log entry 3). `cmd`, `sink`, `turns` and `replies` are what the agents outside will do and have been
answered (log entries 5, 7, 8, 9), and `epoch` counts resets for the free contents of the buffer (log entry 2). -/
structure State where
  /-- The parameters of 00_scope.md R7: constant along every run. -/
  cfg : Config
  /-- `ACC`, the phase accumulator (R22). -/
  acc : Phase
  /-- `KSCALE`, the tuning constant (R23). -/
  kscale : Word
  /-- `BUF`, the output buffer (R24). -/
  buf : Memory
  /-- `WR_PTR`, the write pointer (R26). -/
  wrPtr : Count
  /-- `VCNT`, the valid count (R27). -/
  vcnt : Count
  /-- `OWN`: set while the buffer belongs to the sink agent (R28). -/
  own : Bool
  /-- `EOS`, end of stream, sticky (R29). -/
  eos : Bool
  /-- `SFAIL`, sink failure, sticky (R30). -/
  sfail : Bool
  /-- `ERRC`, the fault code; none while the block is not faulted (R31, 93 U13). -/
  errc : Option FaultCode
  /-- `ERRW`, the faulting word (R31). -/
  errw : Word
  /-- The words the command agent has still to get accepted; the first is the one presented (30_encoding.md R60, R67). -/
  cmd : List Word
  /-- The operations the sink agent has still to perform; the first is the one requested (43_sink_port.md). -/
  sink : List SinkOp
  /-- Whose turn is next, and then (00_scope.md R10): any list, so any interleaving. -/
  turns : List Agent
  /-- What the sink's reads have been answered: slot and data, oldest first (R121). -/
  replies : List (Count × Word)
  /-- The number of resets taken: selects the unspecified contents of the buffer (R150). -/
  epoch : Nat
  deriving DecidableEq, Repr

/-- Why the machine stops: never for a fault of a command word, which is a next state (60_exceptions.md R133). -/
inductive Fault where
  /-- Raised by `MOD` when `WR_PTR` is the number of no slot of `BUF` (20_memory.md R40): an address that does not exist.
  No reachable state has such a pointer (10_state.md R34 I1). Safe: the model stops and invents no slot (log entry 11). -/
  | slotOutOfRange
  deriving DecidableEq, Repr

/-- Why the model gives no answer. -/
inductive Refusal where
  /-- The instruction has no meaning in this model yet. Raised by no arm: every instruction has its meaning. Safe. -/
  | notModelled (mnemonic : String)
  deriving DecidableEq, Repr

/-- What a step or a meaning answers. -/
abbrev Answer := Host.Outcome State Fault Refusal

/-- The machine right after reset (70_reset_and_hazards.md R150) with the configuration of Table.lean, before any agent
presents anything. `BUF` lists nothing: every byte is unspecified. -/
def State.reset : State where
  cfg := defaultConfig
  acc := 0
  kscale := defaultConfig.kReset
  buf := []
  wrPtr := 0
  vcnt := 0
  own := false
  eos := false
  sfail := false
  errc := none
  errw := 0
  cmd := []
  sink := []
  turns := []
  replies := []
  epoch := 0

end Sys2Proof.Machine
end

