-- ==== Sys2Proof/Machine/Ops.lean ====
section
/-! DEFINITION. The named operations over the buffer memory and the state elements, and the fault action. -/

namespace Sys2Proof.Machine

/-! ### The buffer as bytes -/

/-- What an address that is not listed holds: no value (70_reset_and_hazards.md R150: unspecified after reset). -/
def Memory.unlisted (_addr : Nat) : Option Byte := none

/-- The byte written to an address since the last reset. -/
def Memory.read : Memory → Nat → Option Byte
  | [], a => Memory.unlisted a
  | (c, d) :: m, a => if a = c then some d else Memory.read m a

/-- Writing one byte keeps the addresses rising. -/
def Memory.write : Memory → Nat → Byte → Memory
  | [], a, b => [(a, b)]
  | (c, d) :: m, a, b =>
    if a < c then (a, b) :: (c, d) :: m
    else if a = c then (a, b) :: m
    else (c, d) :: Memory.write m a b

/-- Writing one whole slot (20_memory.md R44), in the byte layout of 20_memory.md R42. -/
def Memory.writeSlot (m : Memory) (s : Nat) (v : Word) : Memory :=
  (((m.write (4 * s) (slotByte v 0)).write (4 * s + 1) (slotByte v 1)).write (4 * s + 2) (slotByte v 2)).write
    (4 * s + 3) (slotByte v 3)

/-- The slot `s`, if it has been written since the last reset. -/
def Memory.slot (m : Memory) (s : Nat) : Option Word :=
  match m.read (4 * s), m.read (4 * s + 1), m.read (4 * s + 2), m.read (4 * s + 3) with
  | some b0, some b1, some b2, some b3 => some (slotOfBytes b0 b1 b2 b3)
  | _, _, _, _ => none

/-- `n` slots from slot `p` up, each set to `0x0000_0000`: the loop of `FLUSH` (42_stream_control.md R111). -/
def Memory.zeroSlots (m : Memory) (p : Nat) : Nat → Memory
  | 0 => m
  | n + 1 => (m.writeSlot p 0).zeroSlots (p + 1) n

/-- The byte at an address of the buffer: the one written since the last reset, else a free value
(70_reset_and_hazards.md R150, 93 U6, log entry 2). -/
def State.bufByte (s : State) (a : Nat) : Byte := (s.buf.read a).getD (Config.unwrittenByte s.epoch a)

/-- `BUF[k]`, a whole slot (00_scope.md R9). -/
def State.slotValue (s : State) (k : Nat) : Word :=
  slotOfBytes (s.bufByte (4 * k)) (s.bufByte (4 * k + 1)) (s.bufByte (4 * k + 2)) (s.bufByte (4 * k + 3))

/-! ### Moving the agents on -/

/-- A turn is over and nothing else has happened. -/
def State.passTurn (s : State) : State := { s with turns := s.turns.tail }

/-- The presented command word is accepted (30_encoding.md R66): it leaves the command port. -/
def State.acceptWord (s : State) : State := { s with cmd := s.cmd.tail, turns := s.turns.tail }

/-- The requested sink operation is performed: it leaves the sink port. -/
def State.acceptSink (s : State) : State := { s with sink := s.sink.tail, turns := s.turns.tail }

/-! ### Faults and reset -/

/-- The fault action `fault(c)` for the accepted word `w` (60_exceptions.md R133), shared by every fault: the first fault
after reset is recorded, a later one is not, and nothing else changes. Control goes nowhere: there is no handler, no
vector, no saved program counter, no mode and no stack. -/
def State.raise (s : State) (c : FaultCode) (w : Word) : State :=
  { s with
    errc := if s.errc = none then some c else s.errc
    errw := if s.errc = none then w else s.errw }

/-- The reset event (70_reset_and_hazards.md R150), which is also the only way out of a fault (60_exceptions.md R135,
R151): every element takes its reset value; the contents of `BUF` become unspecified anew. What the agents outside
present is theirs and stays (R150: reset does not consume a command word; log entry 12). -/
def State.resetEvent (s : State) : State :=
  { s with
    acc := 0
    kscale := s.cfg.kReset
    buf := []
    wrPtr := 0
    vcnt := 0
    own := false
    eos := false
    sfail := false
    errc := none
    errw := 0
    epoch := s.epoch + 1 }

/-! ### Effects shared by meanings -/

/-- `ACC <- a`. -/
def State.setPhase (s : State) (a : Phase) : State := { s with acc := a }

/-- `KSCALE <- k`. -/
def State.setScale (s : State) (k : Word) : State := { s with kscale := k }

/-- `BUF[uint(WR_PTR)] <- v` and the advance of the pointer: the last slot hands the buffer over in the same step
(40_modulate.md R84). -/
def State.appendSlot (s : State) (v : Word) : State :=
  let last : Bool := decide (s.wrPtr.toNat + 1 = s.cfg.bufCap)
  { s with
    buf := s.buf.writeSlot s.wrPtr.toNat v
    wrPtr := if last then 0 else s.wrPtr + 1
    vcnt := if last then BitVec.ofNat 24 s.cfg.bufCap else s.vcnt
    own := last || s.own }

/-- The effect of `FLUSH` (42_stream_control.md R111): `EOS <- 1`, and a fill in progress is padded with zero and handed
over with `VCNT` the number of modulated samples in it. -/
def State.endStream (s : State) : State :=
  let p := s.wrPtr.toNat
  let partialFill : Bool := decide (p ≠ 0)
  { s with
    buf := if partialFill then s.buf.zeroSlots p (s.cfg.bufCap - p) else s.buf
    vcnt := if partialFill then s.wrPtr else s.vcnt
    wrPtr := 0
    own := partialFill || s.own
    eos := true }

/-- The effect of `REL(ok)` (43_sink_port.md R123): a buffer the sink holds comes back, and a failed push is remembered;
while the sink holds none, nothing (R124 a). -/
def State.release (s : State) (ok : Bool) : State :=
  { s with
    own := false
    sfail := s.sfail || (s.own && !ok) }

/-- The answer of an acknowledged `RD(slot)` (43_sink_port.md R121), which changes no element of CPFM. -/
def State.reply (s : State) (slot : Count) : State :=
  { s with replies := s.replies ++ [(slot, s.slotValue slot.toNat)] }

end Sys2Proof.Machine
end

