-- ==== Sys2Proof/Machine/Flags.lean ====
section
/-! DEFINITION. The conditions on the flags (10_state.md R28 to R31, 60_exceptions.md R139), the hold condition
(30_encoding.md R66) and the status port (10_state.md R33, 60_exceptions.md R136). CPFM has no arithmetic flag (R32). -/

namespace Sys2Proof.Machine

/-- Faulted: `ERRC ≠ 0` (00_scope.md R12). -/
def State.faulted (s : State) : Bool := s.errc.isSome

/-- `EOS = 1` or `SFAIL = 1`: `MOD` and `FLUSH` then fault with `E_STOPPED` (60_exceptions.md R132). -/
def State.ended (s : State) : Bool := s.eos || s.sfail

/-- Whether an instruction is a `MOD`, the only one that can be held. -/
def isMod : Instr → Bool
  | .mod _ => true
  | .ldkl _ => false
  | .ldkh _ => false
  | .clrph => false
  | .flush => false

/-- `HOLD(w)` for a word `w` that decodes to `i` (30_encoding.md R66). -/
def State.holds (s : State) (i : Instr) : Bool := !s.faulted && isMod i && !s.eos && !s.sfail && s.own

/-- The value of a fault code (60_exceptions.md R131). -/
def faultBits : FaultCode → BitVec 3
  | .illop => 1
  | .rsvd => 2
  | .stopped => 3

/-- `ERRC` as its 3 bits; 0 is no fault (10_state.md R31). -/
def errcBits : Option FaultCode → BitVec 3
  | none => 0
  | some c => faultBits c

/-- `STATUS = {WR_PTR, 0b00, ERRC, SFAIL, EOS, OWN}` (10_state.md R33, SR0). -/
def State.statusWord (s : State) : Word :=
  ((((s.wrPtr ++ (0 : BitVec 2)) ++ errcBits s.errc) ++ BitVec.ofBool s.sfail) ++ BitVec.ofBool s.eos) ++
    BitVec.ofBool s.own

/-- The `VCNT` status word (10_state.md R33, SR1). -/
def State.vcntWord (s : State) : Word := (0 : BitVec 8) ++ s.vcnt

/-- The `ERRW` status word (10_state.md R33, SR2). -/
def State.errwWord (s : State) : Word := s.errw

/-- The output `buf_rdy_o = OWN` (30_encoding.md R60). -/
def State.bufRdy (s : State) : Bool := s.own

/-- The output `fault_o = (ERRC ≠ 0) or (SFAIL = 1)` (30_encoding.md R60, 60_exceptions.md R136). -/
def State.faultOut (s : State) : Bool := s.faulted || s.sfail

end Sys2Proof.Machine
end

