-- ==== Sys2Proof/Machine/Configure.lean ====
section
/-! DEFINITION. The meanings of the configuration commands `LDKL`, `LDKH` and `CLRPH` (41_config.md R101 to R103). None is
ever held and none raises a fault of its own: only a faulted block discards them. -/

namespace Sys2Proof.Machine

/-- `LDKL v`: `KSCALE <- {KSCALE[31:16], v}` (41_config.md R101). -/
def execLdkl (v : Half) (s : State) : Answer :=
  if s.faulted then .next s else .next (s.setScale (withLowHalf s.kscale v))

/-- `LDKH v`: `KSCALE <- {v, KSCALE[15:0]}` (41_config.md R102). -/
def execLdkh (v : Half) (s : State) : Answer :=
  if s.faulted then .next s else .next (s.setScale (withHighHalf s.kscale v))

/-- `CLRPH`: `ACC <- 0` (41_config.md R103), at any pointer and whoever owns the buffer. -/
def execClrph (s : State) : Answer :=
  if s.faulted then .next s else .next (s.setPhase 0)

end Sys2Proof.Machine
end

