-- ==== Sys2Proof/Machine/Modulate.lean ====
section
/-! DEFINITION. The meaning of `MOD` (40_modulate.md R81 to R85). -/

namespace Sys2Proof.Machine

/-- One sample: the phase is advanced first, the pair of the new phase goes to slot `WR_PTR` (40_modulate.md R80, R81). -/
def State.modulate (s : State) (dev : Int) : State :=
  (s.appendSlot (samplePair s.cfg (tableIndex (nextPhase s.acc dev s.kscale)))).setPhase (nextPhase s.acc dev s.kscale)

/-- `MOD dev` (40_modulate.md R81): discarded while faulted (60_exceptions.md R134); `E_STOPPED` after the end of the stream
or a failed push (R132); held, with no change, while the sink owns the buffer (30_encoding.md R66); otherwise one sample.
A pointer outside the buffer, which no reachable state has, is the address fault (log entry 11). -/
def execMod (dev : Int) (s : State) : Answer :=
  if s.faulted then .next s
  else if s.ended then .next (s.raise .stopped (encode (.mod dev)))
  else if s.own then .next s
  else if s.wrPtr.toNat < s.cfg.bufCap then .next (s.modulate dev)
  else .fault .slotOutOfRange

end Sys2Proof.Machine
end

