-- ==== Sys2Proof/Machine/Stream.lean ====
section
/-! DEFINITION. The meaning of `FLUSH` (42_stream_control.md R111, R112). -/

namespace Sys2Proof.Machine

/-- `FLUSH` (42_stream_control.md R111): discarded while faulted; `E_STOPPED` after the end of the stream or a failed push
(60_exceptions.md R132); otherwise the stream ends, whoever owns the buffer: `FLUSH` is never held. -/
def execFlush (s : State) : Answer :=
  if s.faulted then .next s
  else if s.ended then .next (s.raise .stopped (encode .flush))
  else .next s.endStream

end Sys2Proof.Machine
end

