-- ==== Sys2Proof/Machine/Dispatch.lean ====
section
/-! DEFINITION. One arm per command, each a direct call of its meaning. -/

namespace Sys2Proof.Machine

/-- The effect of a command accepted in a state (30_encoding.md R66). -/
def exec (i : Instr) (s : State) : Host.Outcome State Fault Refusal :=
  match i with
  | .mod dev => Sys2Proof.Machine.execMod dev s
  | .ldkl v => Sys2Proof.Machine.execLdkl v s
  | .ldkh v => Sys2Proof.Machine.execLdkh v s
  | .clrph => Sys2Proof.Machine.execClrph s
  | .flush => Sys2Proof.Machine.execFlush s

end Sys2Proof.Machine
end

