-- ==== Sys2Proof/Machine/Ports.lean ====
section
/-! DEFINITION. The ports and the agents: what the agent whose turn it is can do in a state (00_scope.md R10,
10_state.md R37, 30_encoding.md R60, R66, 43_sink_port.md R121 to R123). -/

namespace Sys2Proof.Machine

/-- What the next turn is. -/
inductive Action where
  /-- No agent has a turn, or the agent on turn presents nothing: there is no step (60_exceptions.md R140). -/
  | idle
  /-- The presented `MOD` is held (30_encoding.md R66). -/
  | held (i : Instr)
  /-- The block is faulted: the presented word is accepted and discarded, undecoded (60_exceptions.md R134). -/
  | discard (w : Word)
  /-- The presented word is accepted and is no command: it faults with this code (30_encoding.md R65). -/
  | illegal (c : FaultCode) (w : Word)
  /-- The presented word is accepted and is this command. -/
  | command (i : Instr)
  /-- The requested `RD` is not acknowledged (43_sink_port.md R122). -/
  | wait (slot : Count)
  /-- The requested `RD` is acknowledged (43_sink_port.md R121). -/
  | read (slot : Count)
  /-- The sink's `REL` is accepted, as it always is (43_sink_port.md R123). -/
  | release (ok : Bool)
  /-- The reset event (70_reset_and_hazards.md R150). -/
  | reset
  deriving DecidableEq, Repr

/-- The command agent's turn with the word `w` presented: acceptance or hold, in the order of 30_encoding.md R66 and
60_exceptions.md R137. -/
def State.commandAction (s : State) (w : Word) : Action :=
  if s.faulted then .discard w
  else
    match decode w with
    | .illegal c => .illegal c w
    | .ok i => if s.holds i then .held i else .command i

/-- The sink agent's turn with an operation requested: `RD` only while `OWN = 1` and only of a slot of the buffer
(43_sink_port.md R121, R122); `REL` always (R123). -/
def State.sinkAction (s : State) : SinkOp → Action
  | .rd slot => if s.own && decide (slot.toNat < s.cfg.bufCap) then .read slot else .wait slot
  | .rel ok => .release ok

/-- What the next turn is. -/
def State.action (s : State) : Action :=
  match s.turns with
  | [] => .idle
  | .command :: _ =>
    match s.cmd with
    | [] => .idle
    | w :: _ => s.commandAction w
  | .sink :: _ =>
    match s.sink with
    | [] => .idle
    | op :: _ => s.sinkAction op
  | .reset :: _ => .reset

/-- `RD(slot)`, acknowledged (43_sink_port.md R121). -/
def execRd (slot : Count) (s : State) : Answer := .next (s.reply slot)

/-- `REL(ok)` (43_sink_port.md R123). -/
def execRel (ok : Bool) (s : State) : Answer := .next (s.release ok)

/-- The reset event (70_reset_and_hazards.md R150). -/
def execReset (s : State) : Answer := .next s.resetEvent

/-- `s` with the word of the low `nbits` bits of `w` at the command port and the command agent's turn next (log entry 7). -/
def State.presentWord (s : State) (nbits w : Nat) : State :=
  { s with cmd := BitVec.ofNat 32 (w % 2 ^ nbits) :: s.cmd, turns := .command :: s.turns }

end Sys2Proof.Machine
end

