-- ==== Sys2Proof/Machine/Step.lean ====
section
/-! DEFINITION. One step: the agent whose turn it is takes its atomic step, if it has one (00_scope.md R10). -/

namespace Sys2Proof.Machine

/-- One turn. An agent whose transaction is not enabled has no step: its turn passes, its word or request stays where it
is, and nothing of CPFM changes (30_encoding.md R66, 43_sink_port.md R122, log entry 6). -/
def step (s : State) : Host.Outcome State Fault Refusal :=
  match s.action with
  | .idle => .next s.passTurn
  | .held _ => .next s.passTurn
  | .discard _ => .next s.acceptWord
  | .illegal c w => .next (s.acceptWord.raise c w)
  | .command i => exec i s.acceptWord
  | .wait _ => .next s.passTurn
  | .read slot => execRd slot s.acceptSink
  | .release ok => execRel ok s.acceptSink
  | .reset => execReset s.passTurn

/-- `s` with the given word presented, so that the very next step executes it (30_encoding.md R60, R66). -/
def State.withFetchWord (s : State) (nbits w : Nat) : State := s.presentWord nbits w

end Sys2Proof.Machine
end

