-- ==== Sys2Proof/Machine/Listing.lean ====
section
/-! DEFINITION. The textual syntax of the spec's own listings (30_encoding.md R68, R69): one line, a list of characters, is
read as the words, sink operations and resets it stands for. No hardware reads it; it is how the spec writes programs. -/

namespace Sys2Proof.Machine

/-- One thing a listing says that an agent does (30_encoding.md R69). -/
inductive Item where
  | word (w : Word)
  | sink (op : SinkOp)
  | reset
  deriving DecidableEq, Repr

/-- A digit of a literal: 0 to 9, and for hexadecimal A to F in either case. -/
def digitValue (c : Char) : Option Nat :=
  if 48 ≤ c.toNat ∧ c.toNat ≤ 57 then some (c.toNat - 48)
  else if 65 ≤ c.toNat ∧ c.toNat ≤ 70 then some (c.toNat - 55)
  else if 97 ≤ c.toNat ∧ c.toNat ≤ 102 then some (c.toNat - 87)
  else none

/-- Digits of a base, read from the left onto `acc`. R8 of 00_scope.md calls underscores separators and does not say where
one may stand. DESIGN CHOICE (log entry 16), safe: one is skipped wherever it stands after the sign or the `0x`, also
first, last or beside another. -/
def readDigits (base : Nat) (acc : Nat) : List Char → Option Nat
  | [] => some acc
  | c :: cs =>
    if c = '_' then readDigits base acc cs
    else
      match digitValue c with
      | none => none
      | some d => if d < base then readDigits base (base * acc + d) cs else none

/-- The number that a literal's digits stand for. DESIGN CHOICE (log entry 16), safe: with no digit, only underscores or
nothing at all, it is no number; the digits may be as many as one likes, leading zeros among them. -/
def readNumber (base : Nat) (cs : List Char) : Option Nat :=
  if cs.all (fun c => decide (c = '_')) then none else readDigits base 0 cs

/-- An operand: its value, and whether it was written in hexadecimal (30_encoding.md R68). -/
def readLiteral : List Char → Option (Int × Bool)
  | '0' :: 'x' :: cs => (readNumber 16 cs).map fun n => ((n : Int), true)
  | '-' :: cs => (readNumber 10 cs).map fun n => (-(n : Int), false)
  | cs => (readNumber 10 cs).map fun n => ((n : Int), false)

/-- An operand of a range that starts at 0. -/
def readBelow (bound : Nat) (cs : List Char) : Option Nat :=
  match readLiteral cs with
  | some (n, _) => if 0 ≤ n ∧ n < bound then some n.toNat else none
  | none => none

/-- The operand of `MOD`: −32768 to 32767 in decimal, or a 16-bit pattern in hexadecimal (30_encoding.md R68). -/
def readDeviation (cs : List Char) : Option Int :=
  match readLiteral cs with
  | some (n, true) => if n < 65536 then some (BitVec.ofInt 16 n).toInt else none
  | some (n, false) => if -32768 ≤ n ∧ n ≤ 32767 then some n else none
  | none => none

/-- A line without its comment: all before the first `;`. -/
def dropComment : List Char → List Char
  | [] => []
  | c :: cs => if c = ';' then [] else c :: dropComment cs

/-- The tokens of a line, separated by spaces or tabs; `tok` is the token read so far. -/
def splitTokens (tok : List Char) : List Char → List (List Char)
  | [] => if tok.isEmpty then [] else [tok]
  | c :: cs =>
    if c = ' ' ∨ c = '\t' then
      (if tok.isEmpty then splitTokens [] cs else tok :: splitTokens [] cs)
    else splitTokens (tok ++ [c]) cs

/-- The word of a command, as an item. -/
def commandItem (i : Instr) : Item := .word (encode i)

/-- The items of a line's tokens (30_encoding.md R68, R69): none where the line is not of the syntax. R69 gives the repeat
count `n` of `MOD d × n` no range and no spelling. DESIGN CHOICE (log entry 16), safe: `n` is an operand from 0 to
`2^32 − 1`, in decimal or hexadecimal, 0 gives no word, and with a larger one the line is not of the syntax. R68 says one command per line and nothing of a line without one. DESIGN
CHOICE (log entry 16), safe: a line without tokens, blank or only a comment, is of the syntax and gives no item. -/
def readTokens : List (List Char) → Option (List Item)
  | [] => some []
  | [m] =>
    if m = ['C', 'L', 'R', 'P', 'H'] then some [commandItem .clrph]
    else if m = ['F', 'L', 'U', 'S', 'H'] then some [commandItem .flush]
    else if m = ['@', 'R', 'E', 'S', 'E', 'T'] then some [.reset]
    else none
  | [m, a] =>
    if m = ['M', 'O', 'D'] then (readDeviation a).map fun d => [commandItem (.mod d)]
    else if m = ['L', 'D', 'K', 'L'] then (readBelow 65536 a).map fun v => [commandItem (.ldkl (BitVec.ofNat 16 v))]
    else if m = ['L', 'D', 'K', 'H'] then (readBelow 65536 a).map fun v => [commandItem (.ldkh (BitVec.ofNat 16 v))]
    else if m = ['L', 'D', 'K'] then
      (readBelow (2 ^ 32) a).map fun k => (expandLdk (BitVec.ofNat 32 k)).map commandItem
    else if m = ['.', 'w', 'o', 'r', 'd'] then (readBelow (2 ^ 32) a).map fun x => [.word (BitVec.ofNat 32 x)]
    else if m = ['@', 'R', 'D'] then (readBelow (2 ^ 24) a).map fun k => [.sink (.rd (BitVec.ofNat 24 k))]
    else if m = ['@', 'R', 'E', 'L'] ∧ a = ['o', 'k'] then some [.sink (.rel true)]
    else if m = ['@', 'R', 'E', 'L'] ∧ a = ['f', 'a', 'i', 'l'] then some [.sink (.rel false)]
    else none
  | [m, a, x, n] =>
    if m = ['M', 'O', 'D'] ∧ x = ['×'] then
      match readDeviation a, readBelow (2 ^ 32) n with
      | some d, some k => some (List.replicate k (commandItem (.mod d)))
      | _, _ => none
    else none
  | _ => none

/-- One line of a listing. -/
def readLine (line : List Char) : Option (List Item) := readTokens (splitTokens [] (dropComment line))

/-- A listing, line by line: none if some line is not of the syntax. -/
def readListing : List (List Char) → Option (List Item)
  | [] => some []
  | l :: ls =>
    match readLine l, readListing ls with
    | some a, some b => some (a ++ b)
    | _, _ => none

/-- The agent that an item belongs to. -/
def itemAgent : Item → Agent
  | .word _ => .command
  | .sink _ => .sink
  | .reset => .reset

/-- The command words of a listing: its program (30_encoding.md R67). -/
def itemWords : List Item → List Word
  | [] => []
  | .word w :: l => w :: itemWords l
  | .sink _ :: l => itemWords l
  | .reset :: l => itemWords l

/-- The sink operations of a listing. -/
def itemOps : List Item → List SinkOp
  | [] => []
  | .word _ :: l => itemOps l
  | .sink op :: l => op :: itemOps l
  | .reset :: l => itemOps l

/-- `s` with a listing still to be run, one turn an item (30_encoding.md R67); a word that is held needs a later turn of
the command agent as well. -/
def State.load (s : State) (items : List Item) : State :=
  { s with
    cmd := s.cmd ++ itemWords items
    sink := s.sink ++ itemOps items
    turns := s.turns ++ items.map itemAgent }

end Sys2Proof.Machine
end

