-- ==== Sys2Proof/WellFormed.lean ====
section
/-! DEFINITION. Which instructions an encoding exists for, and which configurations are legal. -/

namespace Sys2Proof

/-- The operand of a `MOD` is a 16-bit two's-complement integer (30_encoding.md R63, R68); every pattern of the other
operands is legal, as their type says. -/
def Instr.wf : Instr → Bool
  | .mod dev => decide (-32768 ≤ dev) && decide (dev ≤ 32767)
  | .ldkl _ => true
  | .ldkh _ => true
  | .clrph => true
  | .flush => true

/-- `1 ≤ AMP ≤ 32767` (00_scope.md R7). -/
def Config.ampOk (c : Config) : Bool := decide (1 ≤ c.amp) && decide (c.amp ≤ 32767)

/-- `1 ≤ BUF_CAP ≤ 2^24 − 1` (00_scope.md R7). -/
def Config.capOk (c : Config) : Bool := decide (1 ≤ c.bufCap) && decide (c.bufCap ≤ 2 ^ 24 - 1)

/-- The quarter table has its 257 entries, starts at 0 and ends at `AMP` (20_memory.md R48 P2, P7). -/
def Config.axesOk (c : Config) : Bool :=
  decide (c.quarter.length = 257) && decide (c.quarter[0]? = some 0) && decide (c.quarter[256]? = some c.amp)

/-- Each entry is at most the next one. -/
def risingList : List Nat → Bool
  | [] => true
  | [_] => true
  | a :: b :: l => decide (a ≤ b) && risingList (b :: l)

/-- The quarter table never falls (20_memory.md R48 P7). -/
def Config.monotoneOk (c : Config) : Bool := risingList c.quarter

/-- No pair leaves the circle by more than the rounding: `QW[j]² + QW[256 − j]² ≤ AMP² + 2·AMP` (20_memory.md R48 P6). -/
def Config.normOk (c : Config) : Bool :=
  (c.quarter.zip c.quarter.reverse).all fun p => decide (p.1 * p.1 + p.2 * p.2 ≤ c.amp * c.amp + 2 * c.amp)

/-- A legal configuration: the ranges of 00_scope.md R7 and the named properties of 20_memory.md R48 that are statements
about integers (P1 follows from P2 and P7, P3 and P4 hold by construction; P5 is in Safety.lean). -/
def Config.wf (c : Config) : Bool := c.ampOk && c.capOk && c.axesOk && c.monotoneOk && c.normOk

end Sys2Proof
end

