-- ==== Sys2Proof/Safety.lean ====
section
/-! DEFINITION. The terms that statements about runs are made in: runs and what happens in them, the ends of a run
(70_reset_and_hazards.md R164), the hazards (R153), the invariants (10_state.md R34), and the table's relation to real
sines (20_memory.md R47). -/

namespace Sys2Proof.Machine

/-! ### Runs -/

/-- `k` turns; a fault or a refusal ends the run. -/
def runSteps : Nat → State → Answer
  | 0, s => .next s
  | k + 1, s =>
    match step s with
    | .next t => runSteps k t
    | .fault r => .fault r
    | .refused r => .refused r

/-- What `observe` sees in the states in which the next `k` turns begin, in order. -/
def collect {α : Type} (observe : State → List α) : Nat → State → List α
  | 0, _ => []
  | k + 1, s =>
    observe s ++
      match step s with
      | .next t => collect observe k t
      | .fault _ => []
      | .refused _ => []

/-- Whether an action is a step of the sink agent (43_sink_port.md R121, R123). -/
def Action.bySink : Action → Bool
  | .idle => false
  | .held _ => false
  | .discard _ => false
  | .illegal _ _ => false
  | .command _ => false
  | .wait _ => false
  | .read _ => true
  | .release _ => true
  | .reset => false

/-- The actions of the next `k` turns. -/
def actionsIn (k : Nat) (s : State) : List Action := collect (fun u => [u.action]) k s

/-- Whether an instruction is one of the two that the end of the stream stops (60_exceptions.md R132). -/
def stoppable : Instr → Bool
  | .mod _ => true
  | .ldkl _ => false
  | .ldkh _ => false
  | .clrph => false
  | .flush => true

/-- The command that the next turn executes for its own effect: not held, not discarded, not faulting. -/
def State.executed (s : State) : Option Instr :=
  match s.action with
  | .command i => if stoppable i && s.ended then none else some i
  | _ => none

/-- The commands executed for their own effect in the next `k` turns. -/
def executedIn (k : Nat) (s : State) : List Instr := collect (fun u => u.executed.toList) k s

/-- The phase increment of the next turn, with the constant then in force, if it modulates (40_modulate.md R86). -/
def State.increment (s : State) : List Int :=
  match s.executed with
  | some (.mod dev) => [phaseIncrement dev s.kscale]
  | _ => []

/-- The phase increments of the next `k` turns. -/
def incrementsIn (k : Nat) (s : State) : List Int := collect State.increment k s

/-- The slot number and the value that the next turn writes, if it modulates (40_modulate.md R89). -/
def State.sampleWritten (s : State) : List (Count × Word) :=
  match s.executed with
  | some (.mod dev) => [(s.wrPtr, samplePair s.cfg (tableIndex (nextPhase s.acc dev s.kscale)))]
  | _ => []

/-- The samples written in the next `k` turns, in order. -/
def samplesIn (k : Nat) (s : State) : List (Count × Word) := collect State.sampleWritten k s

/-- The valid count of the buffer that the next turn hands over, if it does: `OWN` rises (00_scope.md R12). -/
def State.handedOver (s : State) : List Nat :=
  match step s with
  | .next t => if !s.own && t.own then [t.vcnt.toNat] else []
  | .fault _ => []
  | .refused _ => []

/-- The valid counts of the buffers handed over in the next `k` turns, in order. -/
def handOversIn (k : Nat) (s : State) : List Nat := collect State.handedOver k s

/-- The contents of the slots below `n`, in slot order. -/
def State.slotsBelow (s : State) (n : Nat) : List Word := (List.range n).map s.slotValue

/-- The modulated samples of the buffer that the next turn hands over, if it does: slots 0 to `VCNT − 1`
(42_stream_control.md R113). -/
def State.samplesHandedOver (s : State) : List Word :=
  match step s with
  | .next t => if !s.own && t.own then t.slotsBelow t.vcnt.toNat else []
  | .fault _ => []
  | .refused _ => []

/-- The modulated samples of the buffers handed over in the next `k` turns, in hand-over order. -/
def samplesHandedOverIn (k : Nat) (s : State) : List Word := collect State.samplesHandedOver k s

/-- The word `w` is presented and the command agent has the turn (30_encoding.md R66). -/
def State.presents (s : State) (w : Word) : Prop :=
  s.turns.head? = some .command ∧ s.cmd.head? = some w

/-- The sink operation `op` is requested and the sink agent has the turn (43_sink_port.md R121, R123). -/
def State.requests (s : State) (op : SinkOp) : Prop :=
  s.turns.head? = some .sink ∧ s.sink.head? = some op

/-! ### The end of a run -/

/-- A final state (70_reset_and_hazards.md R164): all words accepted, no buffer out, no fault, no failed push. Whether the
stream was completed or the program simply stopped is `eos`. -/
def State.final (s : State) : Prop :=
  s.cmd = [] ∧ s.own = false ∧ s.errc = none ∧ s.sfail = false

/-- The fault outcome (70_reset_and_hazards.md R164): never final. -/
def State.faultOutcome (s : State) : Prop := s.errc ≠ none ∨ s.sfail = true

/-- The presented word is a `MOD` under the hold condition (30_encoding.md R66). -/
def State.headHeld (s : State) : Prop :=
  ∃ w i, s.cmd.head? = some w ∧ decode w = .ok i ∧ s.holds i = true

/-- Stuck (70_reset_and_hazards.md R164): a `MOD` is held and the sink takes no further step in the turns that are left,
whoever has them. A turn in which the sink requests nothing, or an `RD` that is not acknowledged, is no step of it
(43_sink_port.md R122, log entry 8). -/
def State.stuck (s : State) : Prop := s.headHeld ∧ ∀ a ∈ actionsIn s.turns.length s, a.bySink = false

/-! ### Hazards that a state shows -/

/-- The hazards of 70_reset_and_hazards.md R153 that one state and the turn in it show; the others are about sequences or
about the agents' intentions. -/
inductive Hazard where
  /-- H2, back-pressure: a `MOD` is held (R157). -/
  | backPressure
  /-- H3: a phase clear inside a fill or a push (R158). -/
  | clearInsideFill
  /-- H4: a `MOD` or `FLUSH` after the end (R159). -/
  | afterEnd
  /-- H5: a `REL` or an `RD` out of protocol (R160). -/
  | sinkDiscipline
  deriving DecidableEq, Repr

/-- The hazards of the next turn. -/
def State.hazards (s : State) : List Hazard :=
  match s.action with
  | .held _ => [.backPressure]
  | .command .clrph => if s.own || decide (s.wrPtr ≠ 0) then [.clearInsideFill] else []
  | .command i => if stoppable i && s.ended then [.afterEnd] else []
  | .wait _ => [.sinkDiscipline]
  | .release _ => if s.own then [] else [.sinkDiscipline]
  | _ => []

/-! ### Invariants -/

/-- A slot value that a `MOD` can write: the pair of one table entry (10_state.md R25). -/
def isSample (c : Config) (v : Word) : Prop := ∃ k : Index, v = samplePair c k

/-- Neither half is the extreme negative value (10_state.md R34 I6). -/
def halvesLegal (v : Word) : Prop := slotI v ≠ 0x8000 ∧ slotQ v ≠ 0x8000

/-- The invariants of 10_state.md R34 that are about one state (I7 is about steps), with what their induction needs: the
configuration is legal, the memory has its canonical form and lies inside the buffer, and the fill in progress has
written the slots below `WR_PTR`. -/
structure State.Inv (s : State) : Prop where
  /-- The parameters are in range and the table has its named properties. -/
  config : s.cfg.wf = true
  /-- The buffer memory is in canonical form. -/
  memory : s.buf.wf = true
  /-- No byte outside the buffer has been written. -/
  inside : ∀ a, s.buf.read a ≠ none → a < 4 * s.cfg.bufCap
  /-- I1. -/
  pointer : s.wrPtr.toNat < s.cfg.bufCap
  /-- I2. -/
  count : s.vcnt.toNat ≤ s.cfg.bufCap
  /-- I3. -/
  owned_pointer : s.own = true → s.wrPtr = 0
  /-- I4. -/
  owned_count : s.own = true → 1 ≤ s.vcnt.toNat
  /-- I5, the modulated part. -/
  owned_samples : s.own = true → ∀ k, k < s.vcnt.toNat → ∃ v, s.buf.slot k = some v ∧ isSample s.cfg v
  /-- I5, the padding. -/
  owned_padding : s.own = true → ∀ k, s.vcnt.toNat ≤ k → k < s.cfg.bufCap → s.buf.slot k = some 0
  /-- The fill in progress. -/
  filled : s.own = false → ∀ k, k < s.wrPtr.toNat → ∃ v, s.buf.slot k = some v ∧ isSample s.cfg v
  /-- I6. -/
  halves : ∀ k v, s.buf.slot k = some v → halvesLegal v
  /-- I8. -/
  ended_empty : s.eos = true → s.own = false → s.wrPtr = 0

/-! ### The table and real numbers -/

/-- `n` is `rnd x`: the nearest integer, and half way between two the one farther from zero (20_memory.md R47). -/
def IsRounding (x : ℝ) (n : ℤ) : Prop :=
  |x - (n : ℝ)| < 1 / 2 ∨ (|x - (n : ℝ)| = 1 / 2 ∧ |x| < |(n : ℝ)|)

/-- The table is the reference table for its `AMP` (20_memory.md R47). -/
def TableIsReference (c : Config) : Prop :=
  ∀ k : Index,
    IsRounding (c.amp * Real.cos (2 * Real.pi * k.toNat / 1024)) (cosRom c k) ∧
      IsRounding (c.amp * Real.sin (2 * Real.pi * k.toNat / 1024)) (sinRom c k)

/-- The real phase `x`, in radians and up to whole turns, is the accumulator's: `2π × uint(ACC) / 2^48` (00_scope.md R11,
10_state.md R22). -/
def IsPhase (x : ℝ) (a : Phase) : Prop :=
  ∃ turns : ℤ, x = 2 * Real.pi * (a.toNat / 2 ^ 48) + 2 * Real.pi * turns

/-- `k` is the tuning constant that software computes for a scale and a sample period (41_config.md R104): their product,
which is not negative, times `2^48`, rounded, where that is in the range of a word. A negative scale or product has none,
also where the product would round to 0 (10_state.md R23, 92 D3). -/
def IsTuningConstant (scale period : ℝ) (k : Word) : Prop :=
  0 ≤ scale ∧ 0 ≤ scale * period ∧ IsRounding (scale * period * 2 ^ 48) (k.toNat : ℤ)

end Sys2Proof.Machine
end

