-- ==== Sys2Proof/Certificates/Slice0/Obligations.lean ====
section
/-! DEFINITION. The statements about CPFM that are to be proved or refuted. Each docstring names the rule or the section of
spec/ that the statement formalises. -/

open Sys2Proof Sys2Proof.Machine

/-! ### Encoding -/

/-- Decoding the word of any well-formed command gives the command back (30_encoding.md sections 2, 4 and 6). -/
def Obligations.DecodeInvertsEncode : Prop :=
  ∀ i : Instr, i.wf = true → decode (encode i) = .ok i

/-- A word that decodes to a command is that command's one word, and the command is well formed: no two words share a
meaning (30_encoding.md sections 2 to 4). -/
def Obligations.EncodeInvertsDecode : Prop :=
  ∀ (w : Word) (i : Instr), decode w = .ok i → i.wf = true ∧ encode i = w

/-- 30_encoding.md R62: each row of the opcode map, by its match and mask, selects exactly the words that decode to its
command; no word matches two rows; a word that matches none is no command and faults. -/
def Obligations.DecodeFollowsMaskTable : Prop :=
  ∀ w : Word,
    ((w &&& 0xFFFF0000 = 0x10000000) ↔ decode w = .ok (.mod (w.extractLsb' 0 16).toInt)) ∧
    ((w &&& 0xFFFF0000 = 0x20000000) ↔ decode w = .ok (.ldkl (w.extractLsb' 0 16))) ∧
    ((w &&& 0xFFFF0000 = 0x30000000) ↔ decode w = .ok (.ldkh (w.extractLsb' 0 16))) ∧
    ((w &&& 0xFFFFFFFF = 0x40000000) ↔ decode w = .ok .clrph) ∧
    ((w &&& 0xFFFFFFFF = 0x50000000) ↔ decode w = .ok .flush) ∧
    (([(0x10000000, 0xFFFF0000), (0x20000000, 0xFFFF0000), (0x30000000, 0xFFFF0000), (0x40000000, 0xFFFFFFFF),
        (0x50000000, 0xFFFFFFFF)] : List (Word × Word)).Pairwise
      fun r q => ¬ (w &&& r.2 = r.1 ∧ w &&& q.2 = q.1)) ∧
    ((∀ r ∈ ([(0x10000000, 0xFFFF0000), (0x20000000, 0xFFFF0000), (0x30000000, 0xFFFF0000), (0x40000000, 0xFFFFFFFF),
        (0x50000000, 0xFFFFFFFF)] : List (Word × Word)), w &&& r.2 ≠ r.1) →
      ∃ c, decode w = .illegal c ∧
        ∀ s : State, s.presents w → s.errc = none → ∃ t, step s = .next t ∧ t.errc = some c ∧ t.errw = w)

/-- 30_encoding.md R64: every word falls into the class its fields say; the all-zero and the all-one word are illegal;
every other word matches exactly one row; and no word is a no-operation: each has a state in which its acceptance changes
more than the command port. -/
def Obligations.EveryWordClassified : Prop :=
  decode 0x00000000 = .illegal .illop ∧ decode 0xFFFFFFFF = .illegal .illop ∧
  ∀ w : Word,
    ((w.extractLsb' 28 4 = (0 : BitVec 4) ∨ 6 ≤ (w.extractLsb' 28 4).toNat) → decode w = .illegal .illop) ∧
    ((1 ≤ (w.extractLsb' 28 4).toNat ∧ (w.extractLsb' 28 4).toNat ≤ 5 ∧ w.extractLsb' 16 12 ≠ (0 : BitVec 12)) →
      decode w = .illegal .rsvd) ∧
    ((((w.extractLsb' 28 4).toNat = 4 ∨ (w.extractLsb' 28 4).toNat = 5) ∧ w.extractLsb' 16 12 = (0 : BitVec 12) ∧
        w.extractLsb' 0 16 ≠ (0 : Half)) →
      decode w = .illegal .rsvd) ∧
    ((1 ≤ (w.extractLsb' 28 4).toNat ∧ (w.extractLsb' 28 4).toNat ≤ 5 ∧ w.extractLsb' 16 12 = (0 : BitVec 12) ∧
        ((w.extractLsb' 28 4).toNat ≤ 3 ∨ w.extractLsb' 0 16 = (0 : Half))) →
      (∃ i, decode w = .ok i) ∧
      ((([(0x10000000, 0xFFFF0000), (0x20000000, 0xFFFF0000), (0x30000000, 0xFFFF0000), (0x40000000, 0xFFFFFFFF),
        (0x50000000, 0xFFFFFFFF)] : List (Word × Word)).filter fun r => decide (w &&& r.2 = r.1)).length = 1)) ∧
    (∃ s t : State, s.presents w ∧ s.errc = none ∧ step s = .next t ∧ t ≠ s.acceptWord ∧ t ≠ s.passTurn)

/-- The encodings of the listing syntax and the expansion of `LDK` (30_encoding.md section 6): the low half first. A
deviation given as two little-endian input bytes is the operand of the `MOD` word that carries them
(20_memory.md section 2). -/
def Obligations.ListingEncodings : Prop :=
  (∀ d : Int, -32768 ≤ d → d ≤ 32767 → encode (.mod d) = 0x10000000 ||| BitVec.ofInt 32 (d % 65536)) ∧
  (∀ v : Nat, v ≤ 65535 →
    encode (.ldkl (BitVec.ofNat 16 v)) = 0x20000000 ||| BitVec.ofNat 32 v ∧
    encode (.ldkh (BitVec.ofNat 16 v)) = 0x30000000 ||| BitVec.ofNat 32 v) ∧
  encode .clrph = 0x40000000 ∧ encode .flush = 0x50000000 ∧
  (∀ k : Nat, k < 2 ^ 32 →
    (expandLdk (BitVec.ofNat 32 k)).map encode =
      [0x20000000 ||| BitVec.ofNat 32 (k % 65536), 0x30000000 ||| BitVec.ofNat 32 (k / 65536)]) ∧
  (∀ b0 b1 : Byte, decode ((0x1000 : Half) ++ (b1 ++ b0 : Half)) = .ok (.mod (deviationOfBytes b0 b1)) ∧
    deviationOfBytes b0 b1 = (b0.toNat : Int) + 256 * b1.toInt)

/-- Words printed in 95_test_vectors.md decode to the commands they are printed for, and their neighbours are refused. -/
def Obligations.PrintedWordsDecode : Prop :=
  decode 0x10004000 = .ok (.mod 16384) ∧ decode 0x1000C000 = .ok (.mod (-16384)) ∧
  decode 0x20001234 = .ok (.ldkl 0x1234) ∧ decode 0x30008000 = .ok (.ldkh 0x8000) ∧
  decode 0x40000000 = .ok .clrph ∧ decode 0x50000000 = .ok .flush ∧
  decode 0x10014000 = .illegal .rsvd ∧ decode 0x40000001 = .illegal .rsvd ∧ decode 0x60000000 = .illegal .illop

/-! ### Acceptance and the step -/

/-- A step of the command agent runs the decoded command: the word leaves the command port, the turn is over, and the rest
is `exec` (30_encoding.md section 5). A held word stays where it is. -/
def Obligations.StepRunsPresentedCommand : Prop :=
  ∀ (s : State) (w : Word) (i : Instr), s.presents w → decode w = .ok i →
    (s.holds i = false → step s = exec i s.acceptWord) ∧ (s.holds i = true → step s = .next s.passTurn)

/-- 30_encoding.md R66: under `HOLD(w)` nothing changes and the word stays presented; otherwise the word is accepted and
executed as the rule's pseudocode says; only `REL` or reset lifts a hold; words are accepted in the order presented. -/
def Obligations.AcceptanceFollowsHold : Prop :=
  (∀ (s : State) (w : Word), s.presents w →
    ((s.errc = none ∧ (∃ dev, decode w = .ok (.mod dev)) ∧ s.eos = false ∧ s.sfail = false ∧ s.own = true) →
      step s = .next { s with turns := s.turns.tail }) ∧
    (¬ (s.errc = none ∧ (∃ dev, decode w = .ok (.mod dev)) ∧ s.eos = false ∧ s.sfail = false ∧ s.own = true) →
      (s.errc ≠ none → step s = .next { s with cmd := s.cmd.tail, turns := s.turns.tail }) ∧
      (s.errc = none → ∀ c, decode w = .illegal c →
        step s = .next { s with cmd := s.cmd.tail, turns := s.turns.tail, errc := some c, errw := w }) ∧
      (s.errc = none → ∀ i, decode w = .ok i →
        ((∃ dev, i = .mod dev) ∨ i = .flush) → (s.eos = true ∨ s.sfail = true) →
        step s = .next { s with cmd := s.cmd.tail, turns := s.turns.tail, errc := some .stopped, errw := w }) ∧
      (s.errc = none → ∀ i, decode w = .ok i →
        ¬ (((∃ dev, i = .mod dev) ∨ i = .flush) ∧ (s.eos = true ∨ s.sfail = true)) →
        step s = exec i { s with cmd := s.cmd.tail, turns := s.turns.tail }))) ∧
  (∀ (s t : State), s.headHeld → step s = .next t → ¬ t.headHeld →
    s.action = .reset ∨ ∃ ok, s.action = .release ok) ∧
  (∀ (s t : State), step s = .next t → t.cmd = s.cmd ∨ t.cmd = s.cmd.tail)

/-- Under the invariants every turn has a next state: no arithmetic, address or other event stops CPFM, and nothing is
refused (40_modulate.md section 2, 60_exceptions.md section 2). -/
def Obligations.EveryTurnCompletes : Prop :=
  (∀ s : State, s.Inv → ∃ t, step s = .next t) ∧
  (∀ (s : State) (r : Refusal), step s ≠ .refused r) ∧
  (∀ (s : State) (r : Fault), step s = .fault r → s.cfg.bufCap ≤ s.wrPtr.toNat)

/-! ### MOD -/

/-- 40_modulate.md R81: operand, encoding, enabling, pseudocode, faults and worked example of `MOD`. -/
def Obligations.ModCommand : Prop :=
  (∀ w : Word, w &&& 0xFFFF0000 = 0x10000000 → decode w = .ok (.mod (w.extractLsb' 0 16).toInt)) ∧
  (∀ dev : Int, -32768 ≤ dev → dev ≤ 32767 →
    encode (.mod dev) &&& 0xFFFF0000 = 0x10000000 ∧
    (encode (.mod dev)).extractLsb' 0 16 = BitVec.ofInt 16 dev) ∧
  (∀ (s : State) (dev : Int), -32768 ≤ dev → dev ≤ 32767 → s.presents (encode (.mod dev)) →
    s.errc = none → s.eos = false → s.sfail = false → s.own = true → step s = .next s.passTurn) ∧
  (∀ (s : State) (dev : Int), s.errc ≠ none → exec (.mod dev) s = .next s) ∧
  (∀ (s : State) (dev : Int), s.errc = none → (s.eos = true ∨ s.sfail = true) →
    exec (.mod dev) s = .next { s with errc := some .stopped, errw := encode (.mod dev) }) ∧
  (∀ (s : State) (dev : Int), -32768 ≤ dev → dev ≤ 32767 → s.errc = none → s.eos = false → s.sfail = false →
    s.own = false → s.wrPtr.toNat < s.cfg.bufCap →
    ∀ (inc : Int) (acc1 : Phase) (idx : Index), inc = dev * (s.kscale.toNat : Int) →
      (acc1.toNat : Int) = ((s.acc.toNat : Int) + inc) % 2 ^ 48 → idx.toNat = acc1.toNat / 2 ^ 38 →
      exec (.mod dev) s = .next { s with
        acc := acc1
        buf := s.buf.writeSlot s.wrPtr.toNat
          (BitVec.ofInt 16 (sinRom s.cfg idx) ++ BitVec.ofInt 16 (cosRom s.cfg idx) : Word)
        wrPtr := if s.wrPtr.toNat = s.cfg.bufCap - 1 then 0 else s.wrPtr + 1
        vcnt := if s.wrPtr.toNat = s.cfg.bufCap - 1 then BitVec.ofNat 24 s.cfg.bufCap else s.vcnt
        own := decide (s.wrPtr.toNat = s.cfg.bufCap - 1) }) ∧
  (∃ t, exec (.mod 16384) State.reset = .next t ∧ encode (.mod 16384) = 0x10004000 ∧
    phaseIncrement 16384 0x5000A001 = 0x140028004000 ∧ t.acc = 0x140028004000 ∧ tableIndex t.acc = 80 ∧
    cosRom t.cfg 80 = 28898 ∧ sinRom t.cfg 80 = 15446 ∧ t.buf.slot 0 = some 0x3C5670E2 ∧ t.wrPtr = 1)

/-- 40_modulate.md R82: the increment is the exact product and less than half a turn; the accumulator takes the sum modulo
2^48, which is the 48-bit addition with the carry dropped; no flag records the wrap. -/
def Obligations.PhaseAccumulates : Prop :=
  (∀ (dev : Int) (k : Word), -32768 ≤ dev → dev ≤ 32767 →
    phaseIncrement dev k = dev * (k.toNat : Int) ∧
    -32768 * (2 ^ 32 - 1) ≤ phaseIncrement dev k ∧ phaseIncrement dev k ≤ 32767 * (2 ^ 32 - 1) ∧
    |phaseIncrement dev k| ≤ 2 ^ 47 - 2 ^ 15 ∧ |phaseIncrement dev k| < 2 ^ 47) ∧
  (∀ (acc : Phase) (dev : Int) (k : Word),
    ((nextPhase acc dev k).toNat : Int) = ((acc.toNat : Int) + phaseIncrement dev k) % 2 ^ 48 ∧
    nextPhase acc dev k = acc + BitVec.ofInt 48 (phaseIncrement dev k)) ∧
  (∀ (s : State) (dev : Int), -32768 ≤ dev → dev ≤ 32767 → s.errc = none → s.eos = false → s.sfail = false →
    s.own = false → s.wrPtr.toNat < s.cfg.bufCap →
    ∃ t, exec (.mod dev) s = .next t ∧ t.acc = nextPhase s.acc dev s.kscale ∧ t.eos = s.eos ∧ t.sfail = s.sfail ∧
      t.errc = s.errc ∧ t.errw = s.errw ∧ t.own = decide (s.wrPtr.toNat + 1 = s.cfg.bufCap))

/-- 40_modulate.md R83: the table is read at the top ten bits of the new accumulator, truncated; the output phase lags the
accumulated one by less than one table step; both outputs lie in [−AMP, AMP]. -/
def Obligations.TableReadAtTopBits : Prop :=
  (∀ a : Phase, (tableIndex a).toNat = a.toNat / 2 ^ 38 ∧ tableIndex a = a.extractLsb' 38 10 ∧
    (tableIndex a).toNat * 2 ^ 38 ≤ a.toNat ∧ a.toNat < ((tableIndex a).toNat + 1) * 2 ^ 38) ∧
  (∀ a b : Phase, a.toNat / 2 ^ 38 = b.toNat / 2 ^ 38 → tableIndex a = tableIndex b) ∧
  (∀ (c : Config) (k : Index), c.wf = true →
    -(c.amp : Int) ≤ cosRom c k ∧ cosRom c k ≤ c.amp ∧ -(c.amp : Int) ≤ sinRom c k ∧ sinRom c k ≤ c.amp) ∧
  (∀ (s : State) (dev : Int), s.errc = none → s.eos = false → s.sfail = false → s.own = false →
    s.wrPtr.toNat < s.cfg.bufCap →
    ∃ t, exec (.mod dev) s = .next t ∧
      t.buf.slot s.wrPtr.toNat =
        some (packPair (cosRom s.cfg (tableIndex t.acc)) (sinRom s.cfg (tableIndex t.acc))))

/-- 40_modulate.md R84: the pair goes to slot `WR_PTR`, never to a slot the command chooses; the last slot hands the buffer
over in the same step, and with one slot every `MOD` does. -/
def Obligations.SampleWrittenAndHandedOver : Prop :=
  (∀ (s : State) (dev : Int), s.errc = none → s.eos = false → s.sfail = false → s.own = false →
    s.cfg.capOk = true → s.wrPtr.toNat < s.cfg.bufCap →
    ∃ (t : State) (i q : Int), exec (.mod dev) s = .next t ∧
      i = cosRom s.cfg (tableIndex t.acc) ∧ q = sinRom s.cfg (tableIndex t.acc) ∧
      t.buf.slot s.wrPtr.toNat = some (BitVec.ofInt 16 q ++ BitVec.ofInt 16 i : Word) ∧
      (∀ a, a / 4 ≠ s.wrPtr.toNat → t.buf.read a = s.buf.read a) ∧
      (s.wrPtr.toNat = s.cfg.bufCap - 1 → t.vcnt.toNat = s.cfg.bufCap ∧ t.wrPtr = 0 ∧ t.own = true) ∧
      (s.wrPtr.toNat ≠ s.cfg.bufCap - 1 →
        t.vcnt = s.vcnt ∧ t.wrPtr.toNat = s.wrPtr.toNat + 1 ∧ t.own = false) ∧
      (s.cfg.bufCap = 1 → t.own = true))

/-- The frame of `MOD` (40_modulate.md section 2): whenever it answers a next state, only the accumulator, one slot of the
buffer, the pointer and, at a hand-over, the count and `OWN` may differ, or, where it faults, only `ERRC` and `ERRW`. The
slot is `WR_PTR` as the step found it. -/
def Obligations.ModFrame : Prop :=
  ∀ (s t : State) (dev : Int), exec (.mod dev) s = .next t →
    t.cfg = s.cfg ∧ t.kscale = s.kscale ∧ t.eos = s.eos ∧ t.sfail = s.sfail ∧ t.cmd = s.cmd ∧ t.sink = s.sink ∧
    t.turns = s.turns ∧ t.replies = s.replies ∧ t.epoch = s.epoch ∧
    (∀ a, ¬ (4 * s.wrPtr.toNat ≤ a ∧ a < 4 * s.wrPtr.toNat + 4) →
      t.buf.read a = s.buf.read a ∧ t.bufByte a = s.bufByte a) ∧
    ((s.errc ≠ none ∨ s.eos = true ∨ s.sfail = true ∨ s.own = true) →
      t.acc = s.acc ∧ t.buf = s.buf ∧ t.wrPtr = s.wrPtr ∧ t.vcnt = s.vcnt ∧ t.own = s.own) ∧
    ((s.errc ≠ none ∨ (s.eos = false ∧ s.sfail = false)) → t.errc = s.errc ∧ t.errw = s.errw) ∧
    (s.wrPtr.toNat + 1 ≠ s.cfg.bufCap → t.vcnt = s.vcnt ∧ t.own = s.own)

/-- 60_exceptions.md R132: after the end of the stream or a failed push `MOD` and `FLUSH` fault and change nothing else;
`LDKL`, `LDKH` and `CLRPH` do not; a `MOD` held when a failed `REL` arrives is released and faults. -/
def Obligations.StoppedCommandsFault : Prop :=
  (∀ (s : State) (i : Instr), ((∃ dev, i = .mod dev) ∨ i = .flush) → s.errc = none →
    (s.eos = true ∨ s.sfail = true) →
    ∃ t, exec i s = .next t ∧ t.errc = some .stopped ∧ t.errw = encode i ∧ t.acc = s.acc ∧ t.buf = s.buf ∧
      t.wrPtr = s.wrPtr ∧ t.vcnt = s.vcnt ∧ t.own = s.own) ∧
  (∀ (s t : State) (i : Instr), ((∃ v, i = .ldkl v) ∨ (∃ v, i = .ldkh v) ∨ i = .clrph) → exec i s = .next t →
    t.errc = s.errc ∧ t.errw = s.errw) ∧
  (∀ (s : State) (w : Word) (i : Instr) (rest : List Agent), s.cmd.head? = some w → decode w = .ok i →
    s.holds i = true → s.turns = .sink :: .command :: rest → s.sink.head? = some (.rel false) →
    ∃ t, runSteps 2 s = .next t ∧ t.errc = some .stopped ∧ t.errw = w ∧ t.sfail = true ∧ t.own = false ∧
      t.acc = s.acc ∧ t.buf = s.buf ∧ t.wrPtr = s.wrPtr ∧ t.vcnt = s.vcnt)

/-- 10_state.md R25: a slot written by `MOD` is `{tc_16(Q), tc_16(I)}` with both in [−AMP, AMP] and neither half `0x8000`;
a slot written by `FLUSH` is zero. -/
def Obligations.SlotPacking : Prop :=
  (∀ (s : State) (dev : Int), s.cfg.wf = true → s.errc = none → s.eos = false → s.sfail = false → s.own = false →
    s.wrPtr.toNat < s.cfg.bufCap →
    ∃ (t : State) (v : Word) (i q : Int), exec (.mod dev) s = .next t ∧ t.buf.slot s.wrPtr.toNat = some v ∧
      v = (BitVec.ofInt 16 q ++ BitVec.ofInt 16 i : Word) ∧ -(s.cfg.amp : Int) ≤ i ∧ i ≤ s.cfg.amp ∧
      -(s.cfg.amp : Int) ≤ q ∧ q ≤ s.cfg.amp ∧ v.extractLsb' 0 16 ≠ (0x8000 : Half) ∧
      v.extractLsb' 16 16 ≠ (0x8000 : Half)) ∧
  (∀ s : State, s.errc = none → s.eos = false → s.sfail = false → s.wrPtr ≠ 0 →
    ∃ t, exec .flush s = .next t ∧
      ∀ k, s.wrPtr.toNat ≤ k → k < s.cfg.bufCap → t.buf.slot k = some 0x00000000)

/-! ### LDKL, LDKH, CLRPH -/

/-- 41_config.md R101: operand, encoding, enabling, pseudocode, frame, corner cases and worked example of `LDKL`. -/
def Obligations.LdklCommand : Prop :=
  (∀ w : Word, w &&& 0xFFFF0000 = 0x20000000 → decode w = .ok (.ldkl (w.extractLsb' 0 16))) ∧
  (∀ v : Half, encode (.ldkl v) &&& 0xFFFF0000 = 0x20000000 ∧ (encode (.ldkl v)).extractLsb' 0 16 = v) ∧
  (∀ (s : State) (v : Half), s.presents (encode (.ldkl v)) → step s = exec (.ldkl v) s.acceptWord) ∧
  (∀ (s : State) (v : Half), s.errc = none →
    exec (.ldkl v) s = .next { s with kscale := (s.kscale.extractLsb' 16 16 ++ v : Word) }) ∧
  (∀ (s : State) (v : Half), s.errc ≠ none → exec (.ldkl v) s = .next s) ∧
  (∀ (s : State) (v : Half), v = s.kscale.extractLsb' 0 16 → exec (.ldkl v) s = .next s) ∧
  (∀ (s : State) (v : Half) (dev : Int), s.errc = none → s.eos = false → s.sfail = false → s.own = false →
    s.wrPtr.toNat < s.cfg.bufCap →
    ∃ t u, exec (.ldkl v) s = .next t ∧ exec (.mod dev) t = .next u ∧
      u.acc = nextPhase s.acc dev (s.kscale.extractLsb' 16 16 ++ v : Word)) ∧
  (∀ s : State, s.errc = none → s.kscale = 0x5000A001 →
    encode (.ldkl 0x1234) = 0x20001234 ∧ exec (.ldkl 0x1234) s = .next { s with kscale := 0x50001234 })

/-- 41_config.md R102: operand, encoding, enabling, pseudocode, corner cases and worked example of `LDKH`. -/
def Obligations.LdkhCommand : Prop :=
  (∀ w : Word, w &&& 0xFFFF0000 = 0x30000000 → decode w = .ok (.ldkh (w.extractLsb' 0 16))) ∧
  (∀ v : Half, encode (.ldkh v) &&& 0xFFFF0000 = 0x30000000 ∧ (encode (.ldkh v)).extractLsb' 0 16 = v) ∧
  (∀ (s : State) (v : Half), s.presents (encode (.ldkh v)) → step s = exec (.ldkh v) s.acceptWord) ∧
  (∀ (s : State) (v : Half), s.errc = none →
    exec (.ldkh v) s = .next { s with kscale := (v ++ s.kscale.extractLsb' 0 16 : Word) }) ∧
  (∀ (s : State) (v : Half), s.errc ≠ none → exec (.ldkh v) s = .next s) ∧
  (∀ (s : State) (v : Half), v = s.kscale.extractLsb' 16 16 → exec (.ldkh v) s = .next s) ∧
  (∀ (s : State) (v : Half) (dev : Int), s.errc = none → s.eos = false → s.sfail = false → s.own = false →
    s.wrPtr.toNat < s.cfg.bufCap →
    ∃ t u, exec (.ldkh v) s = .next t ∧ exec (.mod dev) t = .next u ∧
      u.acc = nextPhase s.acc dev (v ++ s.kscale.extractLsb' 0 16 : Word)) ∧
  (∀ s : State, s.errc = none →
    ∃ t u, exec (.ldkl 0) s = .next t ∧ exec (.ldkh 0) t = .next u ∧ u.kscale = 0 ∧
      ∀ dev, nextPhase u.acc dev u.kscale = u.acc) ∧
  (∀ s : State, s.errc = none → s.kscale = 0x5000A001 →
    encode (.ldkh 0x8000) = 0x30008000 ∧ exec (.ldkh 0x8000) s = .next { s with kscale := 0x8000A001 })

/-- 41_config.md R103: encoding, enabling, pseudocode, frame, faults, corner cases and worked example of `CLRPH`; outside
`MOD` itself and reset a `CLRPH` is the one thing that moves the phase, and so voids the continuity law. -/
def Obligations.ClrphCommand : Prop :=
  (∀ w : Word, w &&& 0xFFFFFFFF = 0x40000000 ↔ decode w = .ok .clrph) ∧ encode .clrph = 0x40000000 ∧
  (∀ w : Word, w.extractLsb' 28 4 = (4 : BitVec 4) →
    (w.extractLsb' 16 12 ≠ (0 : BitVec 12) ∨ w.extractLsb' 0 16 ≠ (0 : Half)) → decode w = .illegal .rsvd) ∧
  (∀ s : State, s.presents 0x40000000 → step s = exec .clrph s.acceptWord) ∧
  (∀ s : State, s.errc = none → exec .clrph s = .next { s with acc := 0 }) ∧
  (∀ s : State, s.errc ≠ none → exec .clrph s = .next s) ∧
  (∀ s : State, s.acc = 0 → exec .clrph s = .next s) ∧
  (∀ (s : State) (dev : Int), s.errc = none → s.eos = false → s.sfail = false → s.own = false →
    s.wrPtr.toNat < s.cfg.bufCap →
    ∃ t u, exec .clrph s = .next t ∧ exec (.mod dev) t = .next u ∧
      ∀ k : Index, (k.toNat : Int) = ((dev * (s.kscale.toNat : Int)) % 2 ^ 48) / 2 ^ 38 →
        u.buf.slot s.wrPtr.toNat = some (packPair (cosRom s.cfg k) (sinRom s.cfg k))) ∧
  (∀ s : State, s.errc = none → s.eos = false → s.sfail = false → s.own = false → s.wrPtr.toNat < s.cfg.bufCap →
    ∃ t u, exec .clrph s = .next t ∧ exec (.mod 0) t = .next u ∧
      u.buf.slot s.wrPtr.toNat = some (packPair (cosRom s.cfg 0) (sinRom s.cfg 0))) ∧
  (∀ s t : State, step s = .next t → s.action ≠ .reset → (∀ dev, s.executed ≠ some (.mod dev)) →
    s.executed ≠ some .clrph → t.acc = s.acc) ∧
  (∀ s : State, s.errc = none → s.acc = 0x800000000000 → exec .clrph s = .next { s with acc := 0x000000000000 })

/-- The frame of `LDKL`, `LDKH` and `CLRPH` (41_config.md section 2): whenever one of them answers a next state, only its
own register may differ: `KSCALE` for the loads, one half each, `ACC` for the clear. No byte of the buffer changes. -/
def Obligations.ConfigurationFrame : Prop :=
  ∀ (s t : State) (i : Instr), ((∃ v, i = .ldkl v) ∨ (∃ v, i = .ldkh v) ∨ i = .clrph) → exec i s = .next t →
    t.cfg = s.cfg ∧ t.wrPtr = s.wrPtr ∧ t.vcnt = s.vcnt ∧ t.own = s.own ∧ t.eos = s.eos ∧ t.sfail = s.sfail ∧
    t.errc = s.errc ∧ t.errw = s.errw ∧ t.cmd = s.cmd ∧ t.sink = s.sink ∧ t.turns = s.turns ∧
    t.replies = s.replies ∧ t.epoch = s.epoch ∧
    (∀ a, t.buf.read a = s.buf.read a ∧ t.bufByte a = s.bufByte a) ∧
    (i ≠ .clrph → t.acc = s.acc) ∧ (i = .clrph → t.kscale = s.kscale) ∧
    ((∃ v, i = .ldkl v) → t.kscale.extractLsb' 16 16 = s.kscale.extractLsb' 16 16) ∧
    ((∃ v, i = .ldkh v) → t.kscale.extractLsb' 0 16 = s.kscale.extractLsb' 0 16)

/-- 70_reset_and_hazards.md R156, hazard H1: `KSCALE` has no shadow register. A `MOD` accepted after one half and before the
other uses one new and one old half; after both halves it uses the new constant; and where only one half differs, one
load suffices. -/
def Obligations.SplitConstantLoad : Prop :=
  (∀ (s : State) (k : Word), s.errc = none →
    ∃ t u, exec (.ldkl (k.extractLsb' 0 16)) s = .next t ∧ exec (.ldkh (k.extractLsb' 16 16)) t = .next u ∧
      t.kscale = (s.kscale.extractLsb' 16 16 ++ k.extractLsb' 0 16 : Word) ∧ u.kscale = k) ∧
  (∀ (s : State) (k : Word) (dev : Int), s.errc = none → s.eos = false → s.sfail = false → s.own = false →
    s.wrPtr.toNat < s.cfg.bufCap →
    (∃ t u, exec (.ldkl (k.extractLsb' 0 16)) s = .next t ∧ exec (.mod dev) t = .next u ∧
      u.acc = nextPhase s.acc dev (s.kscale.extractLsb' 16 16 ++ k.extractLsb' 0 16 : Word)) ∧
    (∃ t u, exec (.ldkh (k.extractLsb' 16 16)) s = .next t ∧ exec (.mod dev) t = .next u ∧
      u.acc = nextPhase s.acc dev (k.extractLsb' 16 16 ++ s.kscale.extractLsb' 0 16 : Word))) ∧
  (∀ (s : State) (k : Word), s.errc = none → s.kscale.extractLsb' 16 16 = k.extractLsb' 16 16 →
    exec (.ldkl (k.extractLsb' 0 16)) s = .next { s with kscale := k }) ∧
  (∀ (s : State) (k : Word), s.errc = none → s.kscale.extractLsb' 0 16 = k.extractLsb' 0 16 →
    exec (.ldkh (k.extractLsb' 16 16)) s = .next { s with kscale := k })

/-! ### FLUSH -/

/-- 42_stream_control.md R111: encoding, enabling, pseudocode, frame, faults and worked example of `FLUSH`. -/
def Obligations.FlushCommand : Prop :=
  (∀ w : Word, w &&& 0xFFFFFFFF = 0x50000000 ↔ decode w = .ok .flush) ∧ encode .flush = 0x50000000 ∧
  (∀ w : Word, w.extractLsb' 28 4 = (5 : BitVec 4) →
    (w.extractLsb' 16 12 ≠ (0 : BitVec 12) ∨ w.extractLsb' 0 16 ≠ (0 : Half)) → decode w = .illegal .rsvd) ∧
  (∀ s : State, s.presents 0x50000000 → step s = exec .flush s.acceptWord) ∧
  (∀ s : State, s.errc = none → s.eos = false → s.sfail = false → s.wrPtr = 0 →
    exec .flush s = .next { s with eos := true }) ∧
  (∀ s : State, s.errc = none → s.eos = false → s.sfail = false → s.wrPtr ≠ 0 →
    ∃ m : Memory,
      exec .flush s = .next { s with buf := m, vcnt := s.wrPtr, wrPtr := 0, own := true, eos := true } ∧
      (∀ k, s.wrPtr.toNat ≤ k → k < s.cfg.bufCap → m.slot k = some 0x00000000) ∧
      (∀ a, ¬ (4 * s.wrPtr.toNat ≤ a ∧ a < 4 * s.cfg.bufCap) → m.read a = s.buf.read a)) ∧
  (∀ s : State, s.errc = none → (s.eos = true ∨ s.sfail = true) →
    exec .flush s = .next { s with errc := some .stopped, errw := 0x50000000 }) ∧
  (∀ s t : State, s.errc = none → s.eos = false → s.sfail = false → exec .flush s = .next t →
    ∃ u, exec .flush t = .next u ∧ u.errc = some .stopped) ∧
  (∀ s : State, s.errc ≠ none → exec .flush s = .next s) ∧
  (∀ s : State, s.cfg.bufCap = 4 → s.wrPtr = 2 → s.own = false → s.errc = none → s.eos = false → s.sfail = false →
    ∃ t, exec .flush s = .next t ∧ t.buf.slot 2 = some 0 ∧ t.buf.slot 3 = some 0 ∧ t.vcnt = 2 ∧ t.wrPtr = 0 ∧
      t.own = true ∧ t.eos = true ∧ t.statusWord = 0x00000003)

/-- The frame of `FLUSH` (42_stream_control.md section 2): whenever it answers a next state, the accumulator, the tuning
constant and `SFAIL` are unchanged, and so is every byte outside the slots `WR_PTR` to `BUF_CAP − 1`; with an empty fill
nothing but `EOS` may differ; where it faults, nothing but `ERRC` and `ERRW`. -/
def Obligations.FlushFrame : Prop :=
  ∀ s t : State, exec .flush s = .next t →
    t.cfg = s.cfg ∧ t.acc = s.acc ∧ t.kscale = s.kscale ∧ t.sfail = s.sfail ∧ t.cmd = s.cmd ∧ t.sink = s.sink ∧
    t.turns = s.turns ∧ t.replies = s.replies ∧ t.epoch = s.epoch ∧
    (∀ a, ¬ (4 * s.wrPtr.toNat ≤ a ∧ a < 4 * s.cfg.bufCap) →
      t.buf.read a = s.buf.read a ∧ t.bufByte a = s.bufByte a) ∧
    (s.wrPtr = 0 → t.buf = s.buf ∧ t.wrPtr = s.wrPtr ∧ t.vcnt = s.vcnt ∧ t.own = s.own) ∧
    ((s.errc ≠ none ∨ s.eos = true ∨ s.sfail = true) →
      t.buf = s.buf ∧ t.wrPtr = s.wrPtr ∧ t.vcnt = s.vcnt ∧ t.own = s.own ∧ t.eos = s.eos) ∧
    ((s.errc ≠ none ∨ (s.eos = false ∧ s.sfail = false)) → t.errc = s.errc ∧ t.errw = s.errw)

/-- The corner cases of `FLUSH` (42_stream_control.md section 2): an empty fill hands nothing over, whoever owns the buffer;
a fill that lacks one slot pads one; with one slot `FLUSH` never hands over. -/
def Obligations.FlushCornerCases : Prop :=
  (∀ s : State, s.errc = none → s.eos = false → s.sfail = false → s.wrPtr = 0 →
    ∃ t, exec .flush s = .next t ∧ t.eos = true ∧ t.own = s.own ∧ t.vcnt = s.vcnt ∧ t.buf = s.buf) ∧
  (∀ s : State, s.errc = none → s.eos = false → s.sfail = false → s.wrPtr ≠ 0 → s.wrPtr.toNat = s.cfg.bufCap - 1 →
    ∃ t, exec .flush s = .next t ∧ t.own = true ∧ t.vcnt = s.wrPtr ∧ t.buf.slot s.wrPtr.toNat = some 0 ∧
      ∀ a, a / 4 ≠ s.wrPtr.toNat → t.buf.read a = s.buf.read a) ∧
  (∀ s : State, s.Inv → s.cfg.bufCap = 1 → s.errc = none → s.eos = false → s.sfail = false →
    exec .flush s = .next { s with eos := true })

/-! ### Faults -/

/-- 60_exceptions.md R131: a step sets `ERRC` only in the three cases of the table, and then to that code, with the whole
accepted word in `ERRW`; and in each of the three cases it does. -/
def Obligations.ExactlyThreeFaults : Prop :=
  (faultBits .illop = 1 ∧ faultBits .rsvd = 2 ∧ faultBits .stopped = 3 ∧ errcBits none = 0 ∧
    ∀ e : Option FaultCode, (errcBits e).toNat < 4) ∧
  (∀ (s t : State) (c : FaultCode), step s = .next t → s.errc = none → t.errc = some c →
    ∃ w, s.presents w ∧ t.errw = w ∧
      ((c = .illop ∧ ((w.extractLsb' 28 4).toNat = 0 ∨ 6 ≤ (w.extractLsb' 28 4).toNat)) ∨
       (c = .rsvd ∧ 1 ≤ (w.extractLsb' 28 4).toNat ∧ (w.extractLsb' 28 4).toNat ≤ 5 ∧
          (w.extractLsb' 16 12 ≠ (0 : BitVec 12) ∨
            (4 ≤ (w.extractLsb' 28 4).toNat ∧ w.extractLsb' 0 16 ≠ (0 : Half)))) ∨
       (c = .stopped ∧ ((∃ dev, decode w = .ok (.mod dev)) ∨ decode w = .ok .flush) ∧
          (s.eos = true ∨ s.sfail = true)))) ∧
  (∀ (s : State) (w : Word), s.presents w → s.errc = none →
    (((w.extractLsb' 28 4).toNat = 0 ∨ 6 ≤ (w.extractLsb' 28 4).toNat) →
      ∃ t, step s = .next t ∧ t.errc = some .illop ∧ t.errw = w) ∧
    ((1 ≤ (w.extractLsb' 28 4).toNat ∧ (w.extractLsb' 28 4).toNat ≤ 5 ∧
        (w.extractLsb' 16 12 ≠ (0 : BitVec 12) ∨
          (4 ≤ (w.extractLsb' 28 4).toNat ∧ w.extractLsb' 0 16 ≠ (0 : Half)))) →
      ∃ t, step s = .next t ∧ t.errc = some .rsvd ∧ t.errw = w) ∧
    ((((∃ dev, decode w = .ok (.mod dev)) ∨ decode w = .ok .flush) ∧ (s.eos = true ∨ s.sfail = true)) →
      ∃ t, step s = .next t ∧ t.errc = some .stopped ∧ t.errw = w))

/-- 60_exceptions.md R133: the fault action writes `ERRC` and `ERRW` if `ERRC = 0` and nothing else; the word is consumed,
`fault_o` rises, and no later word has any effect. -/
def Obligations.FaultActionIsPrecise : Prop :=
  (∀ (s : State) (c : FaultCode) (w : Word), s.errc = none →
    s.raise c w = { s with errc := some c, errw := w } ∧ (s.raise c w).faultOut = true) ∧
  (∀ (s : State) (c : FaultCode) (w : Word), s.errc ≠ none → s.raise c w = s) ∧
  (∀ (s : State) (w : Word) (c : FaultCode), s.presents w → s.errc = none → decode w = .illegal c →
    step s = .next { s with cmd := s.cmd.tail, turns := s.turns.tail, errc := some c, errw := w }) ∧
  (∀ (s : State) (w : Word) (i : Instr), s.presents w → s.errc = none → decode w = .ok i →
    ((∃ dev, i = .mod dev) ∨ i = .flush) → (s.eos = true ∨ s.sfail = true) →
    step s = .next { s with cmd := s.cmd.tail, turns := s.turns.tail, errc := some .stopped, errw := w }) ∧
  (∀ (s : State) (w : Word), s.presents w → s.errc ≠ none →
    step s = .next { s with cmd := s.cmd.tail, turns := s.turns.tail })

/-- 60_exceptions.md R134: while `ERRC ≠ 0`, along any number of turns with no reset among them, every word presented is
accepted and discarded, the first fault is kept, nothing but the sink's own `REL` changes the state of the block, and the
sink's reads are answered as before. -/
def Obligations.FailStop : Prop :=
  (∀ (s : State) (w : Word), s.presents w → s.errc ≠ none →
    step s = .next { s with cmd := s.cmd.tail, turns := s.turns.tail }) ∧
  (∀ (k : Nat) (s : State), s.errc ≠ none → Action.reset ∉ actionsIn k s →
    ∃ t, runSteps k s = .next t ∧ t.errc = s.errc ∧ t.errw = s.errw ∧ t.acc = s.acc ∧ t.kscale = s.kscale ∧
      t.buf = s.buf ∧ t.wrPtr = s.wrPtr ∧ t.vcnt = s.vcnt ∧ t.eos = s.eos) ∧
  (∀ (s : State) (slot : Count), s.errc ≠ none → s.requests (.rd slot) → s.own = true → slot.toNat < s.cfg.bufCap →
    ∃ t, step s = .next t ∧ t.replies = s.replies ++ [(slot, s.slotValue slot.toNat)]) ∧
  (∀ (s : State) (ok : Bool), s.errc ≠ none → s.requests (.rel ok) → s.own = true →
    ∃ t, step s = .next t ∧ t.own = false ∧ t.errc = s.errc) ∧
  (∀ s : State, s.errc ≠ none → ¬ s.final)

/-- 60_exceptions.md R137: the order of the checks on one accepted word, from the discard to the execution of a word that
passes them all, with the rule's three words; a malformed `MOD` is never held. -/
def Obligations.OrderOfChecks : Prop :=
  (∀ (s : State) (w : Word), s.presents w → s.errc ≠ none →
    step s = .next { s with cmd := s.cmd.tail, turns := s.turns.tail }) ∧
  (∀ (s : State) (w : Word), s.presents w → s.errc = none →
    ((w.extractLsb' 28 4).toNat = 0 ∨ 6 ≤ (w.extractLsb' 28 4).toNat) →
    step s = .next { s with cmd := s.cmd.tail, turns := s.turns.tail, errc := some .illop, errw := w }) ∧
  (∀ (s : State) (w : Word), s.presents w → s.errc = none →
    1 ≤ (w.extractLsb' 28 4).toNat → (w.extractLsb' 28 4).toNat ≤ 5 →
    (w.extractLsb' 16 12 ≠ (0 : BitVec 12) ∨
      (4 ≤ (w.extractLsb' 28 4).toNat ∧ w.extractLsb' 0 16 ≠ (0 : Half))) →
    step s = .next { s with cmd := s.cmd.tail, turns := s.turns.tail, errc := some .rsvd, errw := w }) ∧
  (∀ (s : State) (w : Word), s.presents w → s.errc = none →
    ((∃ dev, decode w = .ok (.mod dev)) ∨ decode w = .ok .flush) → (s.eos = true ∨ s.sfail = true) →
    step s = .next { s with cmd := s.cmd.tail, turns := s.turns.tail, errc := some .stopped, errw := w }) ∧
  (∀ (s : State) (w : Word) (i : Instr), s.presents w → s.errc = none → decode w = .ok i →
    ¬ (((∃ dev, i = .mod dev) ∨ i = .flush) ∧ (s.eos = true ∨ s.sfail = true)) → s.holds i = false →
    step s = exec i s.acceptWord) ∧
  (∀ s : State, s.errc = none → s.eos = true →
    (s.presents 0x60000001 → ∃ t, step s = .next t ∧ t.errc = some .illop) ∧
    (s.presents 0x10010000 → ∃ t, step s = .next t ∧ t.errc = some .rsvd) ∧
    (s.presents 0x10000000 → ∃ t, step s = .next t ∧ t.errc = some .stopped)) ∧
  (∀ (s : State) (w : Word) (i : Instr), s.presents w → decode w = .ok i → s.holds i = true →
    s.errc = none ∧ (∃ dev, i = .mod dev) ∧ s.eos = false ∧ s.sfail = false)

/-- Along any run in which every accepted word is a command, no `MOD` or `FLUSH` is sent after the end (hazard H4) and the
sink reports no failure, nothing faults; and a state of the fault outcome is never final (70_reset_and_hazards.md
sections 3 and 5). -/
def Obligations.OrderlyRunsDoNotFault : Prop :=
  (∀ (k : Nat) (s t : State), runSteps k s = .next t → s.errc = none → s.sfail = false →
    (∀ c w, Action.illegal c w ∉ actionsIn k s) → Hazard.afterEnd ∉ collect State.hazards k s →
    Action.release false ∉ actionsIn k s → t.errc = none ∧ t.sfail = false ∧ t.faultOut = false) ∧
  (∀ s : State, s.faultOutcome → ¬ s.final)

/-! ### The sink port -/

/-- A read of the sink (43_sink_port.md section 2): acknowledged while the sink owns the buffer and the slot exists; the
answer is the slot, nothing of CPFM changes, and under the invariants slots below `VCNT` are samples and the others zero. -/
def Obligations.ReadAnswersSlot : Prop :=
  (∀ (s : State) (slot : Count), s.requests (.rd slot) → s.own = true → slot.toNat < s.cfg.bufCap →
    step s = .next { s with
      sink := s.sink.tail, turns := s.turns.tail, replies := s.replies ++ [(slot, s.slotValue slot.toNat)] }) ∧
  (∀ (s : State) (slot : Count), s.Inv → s.own = true → slot.toNat < s.cfg.bufCap →
    (slot.toNat < s.vcnt.toNat → isSample s.cfg (s.slotValue slot.toNat)) ∧
    (s.vcnt.toNat ≤ slot.toNat → s.slotValue slot.toNat = 0))

/-- A read that is not enabled gets no answer and changes nothing, and records no fault; one of a slot that does not exist is
never enabled; one of a legal slot becomes enabled with the hand-over (43_sink_port.md section 2). That the sink does
nothing behind a read that is never enabled, and that its request outlives a reset, is the model's reading (log entries 8
and 12): a sink that gave up its read could go on. -/
def Obligations.UnenabledReadWaits : Prop :=
  (∀ (s : State) (slot : Count), s.requests (.rd slot) → (s.own = false ∨ s.cfg.bufCap ≤ slot.toNat) →
    step s = .next { s with turns := s.turns.tail }) ∧
  (∀ (k : Nat) (s t : State) (slot : Count), s.sink.head? = some (.rd slot) → s.cfg.bufCap ≤ slot.toNat →
    runSteps k s = .next t → t.sink = s.sink ∧ t.replies = s.replies) ∧
  (∀ (s t u : State) (slot : Count), s.own = false → s.sink.head? = some (.rd slot) → slot.toNat < s.cfg.bufCap →
    s.turns.head? = some .command → step s = .next t → t.own = true → t.turns.head? = some .sink →
    step t = .next u → u.replies = t.replies ++ [(slot, t.slotValue slot.toNat)])

/-- 43_sink_port.md R123: `REL` is always accepted; it gives the buffer back and, on failure, sets `SFAIL`; all else keeps
its value; afterwards a held `MOD` is enabled, or, after a failed push, faults. -/
def Obligations.ReleaseReturnsBuffer : Prop :=
  (∀ (s : State) (ok : Bool), s.requests (.rel ok) → s.own = true →
    step s = .next { s with
      sink := s.sink.tail, turns := s.turns.tail, own := false, sfail := s.sfail || !ok }) ∧
  (∀ (s : State) (ok : Bool), s.requests (.rel ok) → s.own = false →
    step s = .next { s with sink := s.sink.tail, turns := s.turns.tail }) ∧
  (∀ (s t : State) (i : Instr), s.requests (.rel true) → s.holds i = true → step s = .next t →
    t.holds i = false ∧ (s.Inv → t.wrPtr = 0 ∧ exec i t ≠ .next t)) ∧
  (∀ (s t : State) (i : Instr), s.requests (.rel false) → s.own = true → s.errc = none → step s = .next t →
    ((∃ dev, i = .mod dev) ∨ i = .flush) →
    t.sfail = true ∧ t.faultOut = true ∧ ∃ u, exec i t = .next u ∧ u.errc = some .stopped ∧ u.errw = encode i)

/-- While the sink owns the buffer and neither releases it nor is reset, no byte of it and no count changes, and every read
of the push is answered from the same contents (20_memory.md section 5, O1 to O3). -/
def Obligations.BufferStableDuringPush : Prop :=
  ∀ (k : Nat) (s t : State), s.Inv → s.own = true → Action.reset ∉ actionsIn k s →
    (∀ ok, Action.release ok ∉ actionsIn k s) → runSteps k s = .next t →
    t.own = true ∧ t.vcnt = s.vcnt ∧ t.wrPtr = 0 ∧
    (∀ a, t.buf.read a = s.buf.read a ∧ t.bufByte a = s.bufByte a) ∧
    ∃ l : List (Count × Word), t.replies = s.replies ++ l ∧
      ∀ p ∈ l, p.1.toNat < s.cfg.bufCap ∧ p.2 = s.slotValue p.1.toNat

/-- A step of the command agent and a step of the sink agent that are both enabled give the same state in either order
(60_exceptions.md section 5), but for two cases: a `REL` of a buffer that only the command step hands over
(43_sink_port.md section 2, R124 a), and, which the spec's sentence overlooks, a failing `REL` beside a `FLUSH`, which
then faults or not (log entry 15). -/
def Obligations.AgentStepsCommute : Prop :=
  ∀ (s : State) (w : Word) (op : SinkOp), s.Inv → s.cmd.head? = some w → s.sink.head? = some op →
    ¬ s.headHeld → (∀ slot, op = .rd slot → s.own = true ∧ slot.toNat < s.cfg.bufCap) →
    ((∃ ok, op = .rel ok) → s.own = false → State.handedOver { s with turns := [.command, .sink] } = []) →
    ¬ (op = .rel false ∧ s.own = true ∧ decode w = .ok .flush ∧ s.errc = none ∧ s.eos = false ∧ s.sfail = false) →
    runSteps 2 { s with turns := [.command, .sink] } = runSteps 2 { s with turns := [.sink, .command] }

/-! ### Reset and the flags -/

/-- Reset (70_reset_and_hazards.md section 1) may come in any state and sets every element to the value of the table; no byte of
`BUF` has a written value afterwards, and each is a free value of a new epoch, so not necessarily the byte before (the
epoch, and a free value of it, are the model's own way to say "unspecified": log entry 2, DESIGN CHOICE); no command word is consumed. -/
def Obligations.ResetSetsEveryElement : Prop :=
  ∀ s : State, s.turns.head? = some .reset →
    ∃ t, step s = .next t ∧ t.acc = 0 ∧ t.kscale = s.cfg.kReset ∧ t.wrPtr = 0 ∧ t.vcnt = 0 ∧ t.own = false ∧
      t.eos = false ∧ t.sfail = false ∧ t.errc = none ∧ t.errw = 0 ∧
      (∀ a, t.buf.read a = none ∧ t.bufByte a = Config.unwrittenByte t.epoch a) ∧ t.epoch = s.epoch + 1 ∧
      t.statusWord = 0 ∧ t.vcntWord = 0 ∧ t.errwWord = 0 ∧ t.bufRdy = false ∧ t.faultOut = false ∧
      t.cmd = s.cmd ∧ t.cfg = s.cfg

/-- Only reset clears `EOS`, `SFAIL`, `ERRC` and `ERRW`, abandons a fill, or takes a buffer from the sink that the sink has
not released (70_reset_and_hazards.md section 1; 10_state.md section 6, I7). -/
def Obligations.OnlyResetClears : Prop :=
  ∀ s t : State, step s = .next t → s.action ≠ .reset →
    (s.eos = true → t.eos = true) ∧ (s.sfail = true → t.sfail = true) ∧
    (s.errc ≠ none → t.errc = s.errc ∧ t.errw = s.errw) ∧
    (s.Inv → s.wrPtr ≠ 0 →
      t.wrPtr.toNat = s.wrPtr.toNat ∨ t.wrPtr.toNat = s.wrPtr.toNat + 1 ∨ (t.wrPtr = 0 ∧ s.own = false ∧ t.own = true)) ∧
    (s.own = true → t.own = true ∨ ∃ ok, s.action = .release ok)

/-- 10_state.md R33: the fields and the reset values of the three status words, which hold no state of their own and do not
show `ACC` or `BUF`; `KSCALE` is written by halves only. -/
def Obligations.StatusWordsShowState : Prop :=
  (∀ s : State,
    s.statusWord.getLsbD 0 = s.own ∧ s.statusWord.getLsbD 1 = s.eos ∧ s.statusWord.getLsbD 2 = s.sfail ∧
    s.statusWord.extractLsb' 3 3 = errcBits s.errc ∧ s.statusWord.extractLsb' 6 2 = (0 : BitVec 2) ∧
    s.statusWord.extractLsb' 8 24 = s.wrPtr ∧
    s.vcntWord.extractLsb' 0 24 = s.vcnt ∧ s.vcntWord.extractLsb' 24 8 = (0 : Byte) ∧ s.errwWord = s.errw) ∧
  (State.reset.statusWord = 0 ∧ State.reset.vcntWord = 0 ∧ State.reset.errwWord = 0 ∧
    State.reset.kscale = State.reset.cfg.kReset) ∧
  (∀ (s : State) (a : Phase) (m : Memory),
    ({ s with acc := a, buf := m } : State).statusWord = s.statusWord ∧
    ({ s with acc := a, buf := m } : State).vcntWord = s.vcntWord ∧
    ({ s with acc := a, buf := m } : State).errwWord = s.errwWord) ∧
  (∀ s t : State, step s = .next t → t.kscale ≠ s.kscale →
    s.action = .reset ∨
    (∃ v, s.action = .command (.ldkl v) ∧ t.kscale.extractLsb' 16 16 = s.kscale.extractLsb' 16 16 ∧
      t.kscale.extractLsb' 0 16 = v) ∨
    (∃ v, s.action = .command (.ldkh v) ∧ t.kscale.extractLsb' 0 16 = s.kscale.extractLsb' 0 16 ∧
      t.kscale.extractLsb' 16 16 = v))

/-- The event outputs (60_exceptions.md section 4): the two as functions of state, and what sets and clears each: nothing else
does, and each of these does. -/
def Obligations.EventOutputs : Prop :=
  (∀ s : State, s.bufRdy = s.own ∧ (s.faultOut = true ↔ s.errc ≠ none ∨ s.sfail = true)) ∧
  (∀ s t : State, step s = .next t → s.bufRdy = false → t.bufRdy = true →
    (∃ dev, s.executed = some (.mod dev) ∧ s.wrPtr.toNat + 1 = s.cfg.bufCap) ∨
    (s.executed = some .flush ∧ s.wrPtr ≠ 0)) ∧
  (∀ s t : State, step s = .next t → s.bufRdy = true → t.bufRdy = false →
    s.action = .reset ∨ ∃ ok, s.action = .release ok) ∧
  (∀ s t : State, step s = .next t → s.faultOut = false → t.faultOut = true →
    (s.errc = none ∧ t.errc ≠ none) ∨ (s.action = .release false ∧ s.own = true)) ∧
  (∀ s t : State, step s = .next t → s.faultOut = true → t.faultOut = false → s.action = .reset) ∧
  (∀ (s : State) (dev : Int), s.executed = some (.mod dev) → s.wrPtr.toNat + 1 = s.cfg.bufCap →
    ∃ t, step s = .next t ∧ s.bufRdy = false ∧ t.bufRdy = true) ∧
  (∀ s : State, s.executed = some .flush → s.wrPtr ≠ 0 → ∃ t, step s = .next t ∧ t.bufRdy = true) ∧
  (∀ (s : State) (ok : Bool), s.action = .release ok →
    ∃ t, step s = .next t ∧ t.bufRdy = false ∧ (s.own = true → ok = false → t.faultOut = true)) ∧
  (∀ (s : State) (c : FaultCode) (w : Word), (s.raise c w).faultOut = true ∧
    (s.action = .illegal c w → ∃ t, step s = .next t ∧ s.errc = none ∧ t.faultOut = true)) ∧
  (∀ (s : State) (i : Instr), s.action = .command i → ((∃ dev, i = .mod dev) ∨ i = .flush) →
    (s.eos = true ∨ s.sfail = true) → ∃ t, step s = .next t ∧ t.errc = some .stopped ∧ t.faultOut = true) ∧
  (∀ s : State, s.action = .reset → ∃ t, step s = .next t ∧ t.bufRdy = false ∧ t.faultOut = false)

/-! ### Invariants -/

/-- Every step keeps the invariants of 10_state.md section 6, from every state that has them, reachable or not. -/
def Obligations.InvariantKept : Prop :=
  ∀ s t : State, s.Inv → step s = .next t → t.Inv

/-- The reset state has the invariants, and the reset event gives them to any state with a legal configuration. The
configuration of State.reset is the model's choice (log entry 3). -/
def Obligations.ResetMeetsInvariant : Prop :=
  State.reset.Inv ∧ ∀ s : State, s.cfg.wf = true → s.resetEvent.Inv

/-- No step changes the configuration: it is no state (10_state.md section 8). -/
def Obligations.ConfigurationIsConstant : Prop :=
  ∀ (k : Nat) (s t : State), runSteps k s = .next t → t.cfg = s.cfg

/-! ### The phase along runs -/

/-- 40_modulate.md R88: the accumulator is written only by an executed `MOD`, by `CLRPH` and by reset; not at a hand-over, by
`REL`, by `FLUSH`, or by `LDKL` or `LDKH`. -/
def Obligations.NoImplicitPhaseClear : Prop :=
  (∀ s t : State, step s = .next t → t.acc ≠ s.acc →
    (∃ dev, s.executed = some (.mod dev) ∧ t.acc = nextPhase s.acc dev s.kscale) ∨
    (s.executed = some .clrph ∧ t.acc = 0) ∨ (s.action = .reset ∧ t.acc = 0)) ∧
  (∀ s t : State, step s = .next t → s.own = false → t.own = true →
    t.acc = s.acc ∨ ∃ dev, s.executed = some (.mod dev) ∧ t.acc = nextPhase s.acc dev s.kscale) ∧
  (∀ (s t : State) (ok : Bool), step s = .next t → s.action = .release ok → t.acc = s.acc) ∧
  (∀ (s t : State) (i : Instr), step s = .next t → s.action = .command i →
    (i = .flush ∨ (∃ v, i = .ldkl v) ∨ (∃ v, i = .ldkh v)) → t.acc = s.acc)

/-- Exact accumulation (40_modulate.md section 5): along any run without a clear or reset the accumulator moves by the sum of
the executed increments, each with the constant in force at its `MOD`, modulo 2^48, whatever the agents' interleaving. -/
def Obligations.ExactAccumulation : Prop :=
  (∀ (k : Nat) (s t : State), runSteps k s = .next t → Action.reset ∉ actionsIn k s →
    Instr.clrph ∉ executedIn k s →
    (t.acc.toNat : Int) = ((s.acc.toNat : Int) + (incrementsIn k s).sum) % 2 ^ 48) ∧
  (∀ (k : Nat) (s t : State) (devs : List Int), runSteps k s = .next t → Action.reset ∉ actionsIn k s →
    executedIn k s = devs.map Instr.mod → s.acc = 0 →
    (t.acc.toNat : Int) = ((s.kscale.toNat : Int) * devs.sum) % 2 ^ 48)

/-- Phase continuity (40_modulate.md section 5): between two consecutive executed `MOD`s without a clear or reset, whatever
else happens, the table index moves by the truncated increment or by one more, modulo 1024. -/
def Obligations.PhaseContinuity : Prop :=
  ∀ (k : Nat) (s t : State) (inc : Int), runSteps k s = .next t → Action.reset ∉ actionsIn k s →
    Instr.clrph ∉ executedIn k s → incrementsIn k s = [inc] →
    ∀ q : Nat, (q : Int) = (inc % 2 ^ 48) / 2 ^ 38 →
      tableIndex t.acc - tableIndex s.acc = BitVec.ofNat 10 q ∨
      tableIndex t.acc - tableIndex s.acc = BitVec.ofNat 10 (q + 1)

/-- Deterministic replay (40_modulate.md section 5): two states that agree on the configuration, the modulator, the pointer,
`EOS`, `ERRC` and the words to come write the same samples to the same slots in the same order, whatever the sink does,
whatever the interleaving and whatever the buffer held: one sequence is an initial part of the other. -/
def Obligations.ReplayIsDeterministic : Prop :=
  ∀ (s r : State) (m n : Nat), s.cfg = r.cfg → s.acc = r.acc → s.kscale = r.kscale → s.wrPtr = r.wrPtr →
    s.eos = r.eos → s.errc = r.errc → s.cmd = r.cmd → Action.reset ∉ actionsIn m s → Action.reset ∉ actionsIn n r →
    samplesIn m s <+: samplesIn n r ∨ samplesIn n r <+: samplesIn m s

/-- The count law (42_stream_control.md section 2): along any run without a reset no sample is lost or made up: the samples in
the fill at the start and those executed are the samples handed over, by their valid counts, and those in the fill at the
end. Every buffer handed over but possibly the last is full, and from one empty fill to another there are exactly as many
buffers as the samples need. -/
def Obligations.SamplesAreConserved : Prop :=
  ∀ (k : Nat) (s t : State), s.Inv → runSteps k s = .next t → Action.reset ∉ actionsIn k s →
    s.wrPtr.toNat + (incrementsIn k s).length = (handOversIn k s).sum + t.wrPtr.toNat ∧
    (∀ v ∈ (handOversIn k s).dropLast, v = s.cfg.bufCap) ∧
    (s.wrPtr = 0 → t.wrPtr = 0 →
      (handOversIn k s).length = ((incrementsIn k s).length + s.cfg.bufCap - 1) / s.cfg.bufCap)

/-- What a buffer holds (42_stream_control.md section 2; 10_state.md section 6, I5): in a run without a reset that starts
with an empty fill and ends with the one buffer it hands over, slot `j` of that buffer is the `j`-th sample executed since
the start, whatever the slots held before, `VCNT` is the number of samples, and every slot from `VCNT` on is zero. While
nothing is handed over, the same holds of the fill in progress. -/
def Obligations.HandedOverBufferHoldsItsFill : Prop :=
  ∀ (k : Nat) (s t : State), s.cfg.capOk = true → s.own = false → s.wrPtr = 0 → Action.reset ∉ actionsIn k s →
    runSteps k s = .next t →
    (∀ n : Nat, handOversIn k s = [n] → t.own = true →
      t.vcnt.toNat = n ∧ (samplesIn k s).length = n ∧
      (∀ (j : Nat) (p : Count × Word), (samplesIn k s)[j]? = some p → p.1.toNat = j ∧ t.buf.slot j = some p.2) ∧
      (∀ j, n ≤ j → j < s.cfg.bufCap → t.buf.slot j = some 0x00000000)) ∧
    (handOversIn k s = [] →
      t.own = false ∧ (samplesIn k s).length = t.wrPtr.toNat ∧
      (∀ (j : Nat) (p : Count × Word), (samplesIn k s)[j]? = some p → p.1.toNat = j ∧ t.buf.slot j = some p.2))

/-- The count law's last clause (42_stream_control.md section 2): along any run without a reset, from a state with the
invariants, the samples already in the fill and then those executed are exactly the modulated samples of the buffers handed
over, in hand-over order and slot order, and then those in the fill at the end. -/
def Obligations.HandedOverSamplesInOrder : Prop :=
  ∀ (k : Nat) (s t : State), s.Inv → runSteps k s = .next t → Action.reset ∉ actionsIn k s →
    s.slotsBelow s.wrPtr.toNat ++ (samplesIn k s).map Prod.snd =
      samplesHandedOverIn k s ++ t.slotsBelow t.wrPtr.toNat

/-- The fixed-point modulator refines the source's real-number one (40_modulate.md section 1, 00_scope.md section 4): with
the reference table, one `MOD` moves the real phase by exactly `2π × dev × K / 2^48`, modulo whole turns, and the pair it
writes is within half a unit and one table step of `AMP` times the cosine and sine of the new real phase. -/
def Obligations.RefinesRealModulator : Prop :=
  ∀ (s : State) (dev : Int) (x : ℝ), TableIsReference s.cfg → IsPhase x s.acc → s.errc = none → s.eos = false →
    s.sfail = false → s.own = false → s.wrPtr.toNat < s.cfg.bufCap →
    ∃ (t : State) (i q : Int) (y : ℝ), exec (.mod dev) s = .next t ∧
      y = x + 2 * Real.pi * (dev * (s.kscale.toNat / 2 ^ 48)) ∧ IsPhase y t.acc ∧
      t.buf.slot s.wrPtr.toNat = some (packPair i q) ∧
      |(i : ℝ) - s.cfg.amp * Real.cos y| ≤ 1 / 2 + s.cfg.amp * (2 * Real.pi / 1024) ∧
      |(q : ℝ) - s.cfg.amp * Real.sin y| ≤ 1 / 2 + s.cfg.amp * (2 * Real.pi / 1024)

/-! ### Waiting -/

/-- A held `MOD` runs as soon as the sink has released the buffer with success and the command agent has a turn: its sample
goes to slot 0 (43_sink_port.md section 2, 70_reset_and_hazards.md section 3). -/
def Obligations.HeldModRunsAfterRelease : Prop :=
  ∀ (s : State) (w : Word) (i : Instr) (rest : List Agent), s.Inv → s.cmd.head? = some w → decode w = .ok i →
    s.holds i = true → s.turns = .sink :: .command :: rest → s.sink.head? = some (.rel true) →
    ∃ t dev, i = .mod dev ∧ runSteps 2 s = .next t ∧ t.cmd = s.cmd.tail ∧ t.acc = nextPhase s.acc dev s.kscale ∧
      t.buf.slot 0 = some (samplePair s.cfg (tableIndex t.acc))

/-- 70_reset_and_hazards.md R157, hazard H2: a `MOD` presented while `OWN = 1` is held, with every word behind it, until a
`REL` or a reset; without one it waits for ever and the sink's buffer is never overwritten. A stuck state stays stuck while
no reset comes, whoever has the turns, and is not final. -/
def Obligations.HeldModWaitsForEver : Prop :=
  (∀ (k : Nat) (s : State), s.headHeld → Action.reset ∉ actionsIn k s → (∀ ok, Action.release ok ∉ actionsIn k s) →
    ∃ t, runSteps k s = .next t ∧ t.headHeld ∧ t.cmd = s.cmd ∧ t.acc = s.acc ∧ t.kscale = s.kscale ∧
      t.buf = s.buf ∧ t.wrPtr = s.wrPtr ∧ t.vcnt = s.vcnt ∧ t.own = true ∧ t.errc = none) ∧
  (∀ (k : Nat) (s : State), s.stuck → Action.reset ∉ actionsIn k s →
    runSteps k s = .next { s with turns := s.turns.drop k } ∧ ({ s with turns := s.turns.drop k } : State).stuck) ∧
  (∀ s : State, s.stuck → ¬ s.final)

/-! ### The table and the byte layout -/

/-- The named properties of the table that are about integers (20_memory.md section 4): P1, P2, P3, P4, P6 and P7, of every
legal configuration and every index. -/
def Obligations.TableProperties : Prop :=
  ∀ c : Config, c.wf = true →
    (∀ k : Index, -(c.amp : Int) ≤ cosRom c k ∧ cosRom c k ≤ c.amp ∧ -(c.amp : Int) ≤ sinRom c k ∧
      sinRom c k ≤ c.amp ∧ cosRom c k ≠ -32768 ∧ sinRom c k ≠ -32768) ∧
    (cosRom c 0 = c.amp ∧ sinRom c 0 = 0 ∧ cosRom c 256 = 0 ∧ sinRom c 256 = c.amp ∧ cosRom c 512 = -(c.amp : Int) ∧
      sinRom c 512 = 0 ∧ cosRom c 768 = 0 ∧ sinRom c 768 = -(c.amp : Int)) ∧
    (∀ k : Index, cosRom c k = sinRom c (BitVec.ofNat 10 ((k.toNat + 256) % 1024))) ∧
    (∀ j : Nat, j ≤ 255 →
      sinRom c (BitVec.ofNat 10 (256 + j)) = sinRom c (BitVec.ofNat 10 (256 - j)) ∧
      sinRom c (BitVec.ofNat 10 (512 + j)) = -sinRom c (BitVec.ofNat 10 j) ∧
      sinRom c (BitVec.ofNat 10 (768 + j)) = -sinRom c (BitVec.ofNat 10 (256 - j))) ∧
    (∀ k : Index,
      cosRom c k * cosRom c k + sinRom c k * sinRom c k ≤ (c.amp : Int) * c.amp + 2 * c.amp ∧
      cosRom c k * cosRom c k + sinRom c k * sinRom c k < ((c.amp : Int) + 1) * (c.amp + 1)) ∧
    (∀ j : Nat, j < 256 → sinRom c (BitVec.ofNat 10 j) ≤ sinRom c (BitVec.ofNat 10 (j + 1)))

/-- The printed table is the reference table: every entry is its real cosine or sine times 32767, rounded to nearest
(20_memory.md section 4). -/
def Obligations.PrintedTableIsRoundedSine : Prop :=
  TableIsReference defaultConfig

/-- The amplitude bound (40_modulate.md section 5): every pair a `MOD` can write reads back, half by half, as two integers in
[−AMP, AMP] with `I² + Q² ≤ AMP² + 2·AMP`, neither half `0x8000`. It bounds the amplitude from above only. -/
def Obligations.OutputRange : Prop :=
  ∀ (c : Config) (v : Word), c.wf = true → isSample c v →
    -(c.amp : Int) ≤ (slotI v).toInt ∧ (slotI v).toInt ≤ c.amp ∧
    -(c.amp : Int) ≤ (slotQ v).toInt ∧ (slotQ v).toInt ≤ c.amp ∧
    (slotI v).toInt * (slotI v).toInt + (slotQ v).toInt * (slotQ v).toInt ≤ (c.amp : Int) * c.amp + 2 * c.amp ∧
    halvesLegal v

/-- 20_memory.md R42: slot `s` occupies the byte addresses `4s` to `4s + 3`: I low, I high, Q low, Q high; and a whole slot
reads as it was written, other slots as before. -/
def Obligations.SlotByteLayout : Prop :=
  (∀ (m : Memory) (k : Nat) (v : Word),
    (m.writeSlot k v).read (4 * k) = some (v.extractLsb' 0 8) ∧
    (m.writeSlot k v).read (4 * k + 1) = some (v.extractLsb' 8 8) ∧
    (m.writeSlot k v).read (4 * k + 2) = some (v.extractLsb' 16 8) ∧
    (m.writeSlot k v).read (4 * k + 3) = some (v.extractLsb' 24 8) ∧
    (m.writeSlot k v).slot k = some v ∧
    (∀ j, j ≠ k → (m.writeSlot k v).slot j = m.slot j)) ∧
  (∀ (s : State) (k : Nat),
    (s.slotValue k).extractLsb' 0 8 = s.bufByte (4 * k) ∧
    (s.slotValue k).extractLsb' 8 8 = s.bufByte (4 * k + 1) ∧
    (s.slotValue k).extractLsb' 16 8 = s.bufByte (4 * k + 2) ∧
    (s.slotValue k).extractLsb' 24 8 = s.bufByte (4 * k + 3) ∧
    (∀ v, s.buf.slot k = some v → s.slotValue k = v))

/-- The tuning constant of the source's scenario (41_config.md section 3): the scale 7500/32767 at 48000 samples a second
gives `0x5000A001`, which `LDK` loads with the two words printed there. -/
def Obligations.ScenarioTuningConstant : Prop :=
  IsTuningConstant (7500 / 32767) (1 / 48000) 0x5000A001 ∧
  (expandLdk 0x5000A001).map encode = [0x2000A001, 0x30005000] ∧
  ∀ s : State, s.errc = none →
    ∃ t u, exec (.ldkl 0xA001) s = .next t ∧ exec (.ldkh 0x5000) t = .next u ∧ u.kscale = 0x5000A001
end

