-- ==== Sys2Proof/Laws/Memory.lean ====
section
/-! SUPPORT. The laws of the buffer memory: a read after a write, the canonical form, and slots as four bytes. -/

namespace Sys2Proof.Machine

/-- A read after a write to the same address gives the byte written. -/
@[simp] theorem Memory.read_write_same (m : Memory) (a : Nat) (b : Byte) : (m.write a b).read a = some b := by
  induction m with
  | nil => simp [Memory.write, Memory.read]
  | cons c m ih =>
    obtain ⟨c, d⟩ := c
    simp only [Memory.write]
    split
    · simp [Memory.read]
    · split
      · simp [Memory.read]
      · rename_i hne; simp [Memory.read, hne, ih]

/-- A write leaves every other address alone. -/
theorem Memory.read_write_other (m : Memory) {a x : Nat} (b : Byte) (h : x ≠ a) : (m.write a b).read x = m.read x := by
  induction m with
  | nil => simp [Memory.write, Memory.read, h]
  | cons c m ih =>
    obtain ⟨c, d⟩ := c
    simp only [Memory.write]
    split
    · simp [Memory.read, h]
    · split
      · rename_i heq; subst heq; simp [Memory.read, h]
      · simp [Memory.read, ih]

/-- The bytes of a slot put together are the slot. -/
@[simp] theorem slotOfBytes_slotByte (v : Word) :
    slotOfBytes (slotByte v 0) (slotByte v 1) (slotByte v 2) (slotByte v 3) = v := by
  apply BitVec.eq_of_getLsbD_eq
  intro i hi
  simp only [slotOfBytes, slotByte, BitVec.getLsbD_append, BitVec.getLsbD_extractLsb']
  by_cases h0 : i < 8
  · simp [h0]
  · by_cases h1 : i < 16
    · have : i - 8 < 8 := by omega
      simp [h0, this]; congr 1; omega
    · by_cases h2 : i < 24
      · have : ¬ (i - 8 < 8) := by omega
        have h3 : i - 8 - 8 < 8 := by omega
        simp [h0, this, h3]; congr 1; omega
      · have : ¬ (i - 8 < 8) := by omega
        have h3 : ¬ (i - 8 - 8 < 8) := by omega
        have h4 : i - 8 - 8 - 8 < 8 := by omega
        simp [h0, this, h3, h4]; congr 1; omega

/-- Writing a slot touches its own four bytes only. -/
theorem Memory.read_writeSlot_outside (m : Memory) (k : Nat) (v : Word) {a : Nat}
    (h : a < 4 * k ∨ 4 * k + 4 ≤ a) : (m.writeSlot k v).read a = m.read a := by
  unfold Memory.writeSlot
  rw [Memory.read_write_other _ _ (by omega), Memory.read_write_other _ _ (by omega),
    Memory.read_write_other _ _ (by omega), Memory.read_write_other _ _ (by omega)]

/-- Byte `n` of a slot just written. -/
theorem Memory.read_writeSlot_inside (m : Memory) (k : Nat) (v : Word) {n : Nat} (h : n < 4) :
    (m.writeSlot k v).read (4 * k + n) = some (slotByte v n) := by
  unfold Memory.writeSlot
  have cases : n = 0 ∨ n = 1 ∨ n = 2 ∨ n = 3 := by omega
  obtain rfl | rfl | rfl | rfl := cases
  · rw [Memory.read_write_other _ _ (by omega), Memory.read_write_other _ _ (by omega),
      Memory.read_write_other _ _ (by omega)]
    exact Memory.read_write_same _ _ _
  · rw [Memory.read_write_other _ _ (by omega), Memory.read_write_other _ _ (by omega), Memory.read_write_same]
  · rw [Memory.read_write_other _ _ (by omega), Memory.read_write_same]
  · rw [Memory.read_write_same]

/-- Padding touches the padded slots only. -/
theorem Memory.read_zeroSlots_outside (m : Memory) (p n : Nat) {a : Nat} (h : a < 4 * p ∨ 4 * (p + n) ≤ a) :
    (m.zeroSlots p n).read a = m.read a := by
  induction n generalizing m p with
  | zero => rfl
  | succ n ih =>
    rw [Memory.zeroSlots, ih _ _ (by omega), Memory.read_writeSlot_outside _ _ _ (by omega)]

/-! ### The canonical form -/

/-- A memory in canonical form, without its first byte, is in canonical form. -/
theorem Memory.wf_tail {c : Host.Cell} {m : Memory} (h : Memory.wf (c :: m) = true) : m.wf = true := by
  cases m with
  | nil => rfl
  | cons d m => simp only [Memory.wf, Bool.and_eq_true] at h; exact h.2

/-- The canonical form of a memory with a first byte. -/
theorem Memory.wf_cons {c : Host.Cell} {m : Memory} (hm : m.wf = true) (h : ∀ d ∈ m.head?, c.1 < d.1) :
    Memory.wf (c :: m) = true := by
  cases m with
  | nil => rfl
  | cons d m => simp [Memory.wf, hm, h d (by simp)]

/-- Writing keeps the canonical form, and the lowest address stays above whatever was below it and the new one. -/
theorem Memory.wf_write_above (m : Memory) (a : Nat) (b : Byte) (hm : m.wf = true) :
    (m.write a b).wf = true ∧ ∀ lo, lo < a → (∀ d ∈ m.head?, lo < d.1) → ∀ d ∈ (m.write a b).head?, lo < d.1 := by
  induction m with
  | nil => exact ⟨rfl, fun lo h _ d hd => by simp [Memory.write] at hd; subst hd; exact h⟩
  | cons c m ih =>
    obtain ⟨c, e⟩ := c
    simp only [Memory.write]
    split
    · rename_i hlt
      exact ⟨Memory.wf_cons hm (by simpa using hlt), fun lo h _ d hd => by simp at hd; subst hd; exact h⟩
    · split
      · rename_i heq
        subst heq
        refine ⟨?_, fun lo h _ d hd => by simp at hd; subst hd; exact h⟩
        cases m with
        | nil => rfl
        | cons f m => simpa [Memory.wf] using hm
      · rename_i hlt hne
        have ih := ih (Memory.wf_tail hm)
        refine ⟨Memory.wf_cons ih.1 (ih.2 c (by omega) ?_), fun lo _ h d hd => ?_⟩
        · intro d hd
          cases m with
          | nil => simp at hd
          | cons f m => simp at hd; subst hd; simp [Memory.wf] at hm; exact hm.1
        · simp at hd; subst hd; exact h (c, e) (by simp)

/-- Writing a byte keeps the canonical form. -/
theorem Memory.wf_write (m : Memory) (a : Nat) (b : Byte) (h : m.wf = true) : (m.write a b).wf = true :=
  (Memory.wf_write_above m a b h).1

/-- Writing a slot keeps the canonical form. -/
theorem Memory.wf_writeSlot (m : Memory) (k : Nat) (v : Word) (h : m.wf = true) : (m.writeSlot k v).wf = true :=
  Memory.wf_write _ _ _ (Memory.wf_write _ _ _ (Memory.wf_write _ _ _ (Memory.wf_write _ _ _ h)))

/-- Padding keeps the canonical form. -/
theorem Memory.wf_zeroSlots (m : Memory) (p n : Nat) (h : m.wf = true) : (m.zeroSlots p n).wf = true := by
  induction n generalizing m p with
  | zero => exact h
  | succ n ih => exact ih _ _ (Memory.wf_writeSlot _ _ _ h)

/-- The memory of the reset state has the canonical form. -/
theorem State.reset_memory_wf : State.reset.buf.wf = true := rfl

/-- A slot that has been written reads as written, whatever the free contents. -/
theorem State.slotValue_of_slot (s : State) (k : Nat) (v : Word) (h : s.buf.slot k = some v) : s.slotValue k = v := by
  unfold Memory.slot at h
  split at h
  · rename_i h0 h1 h2 h3
    simp only [Option.some.injEq] at h
    simp [State.slotValue, State.bufByte, h0, h1, h2, h3, h]
  · exact absurd h (by simp)

end Sys2Proof.Machine
end

