-- ==== Sys2Proof/Laws/State.lean ====
section
/-! SUPPORT. One lemma per field per update of the state, each true by rfl: later proofs unfold no record update. -/

namespace Sys2Proof.Machine

/-! ### passTurn: the turn is over -/

@[simp] theorem State.passTurn_cfg (s : State) : s.passTurn.cfg = s.cfg := rfl
@[simp] theorem State.passTurn_acc (s : State) : s.passTurn.acc = s.acc := rfl
@[simp] theorem State.passTurn_kscale (s : State) : s.passTurn.kscale = s.kscale := rfl
@[simp] theorem State.passTurn_buf (s : State) : s.passTurn.buf = s.buf := rfl
@[simp] theorem State.passTurn_wrPtr (s : State) : s.passTurn.wrPtr = s.wrPtr := rfl
@[simp] theorem State.passTurn_vcnt (s : State) : s.passTurn.vcnt = s.vcnt := rfl
@[simp] theorem State.passTurn_own (s : State) : s.passTurn.own = s.own := rfl
@[simp] theorem State.passTurn_eos (s : State) : s.passTurn.eos = s.eos := rfl
@[simp] theorem State.passTurn_sfail (s : State) : s.passTurn.sfail = s.sfail := rfl
@[simp] theorem State.passTurn_errc (s : State) : s.passTurn.errc = s.errc := rfl
@[simp] theorem State.passTurn_errw (s : State) : s.passTurn.errw = s.errw := rfl
@[simp] theorem State.passTurn_cmd (s : State) : s.passTurn.cmd = s.cmd := rfl
@[simp] theorem State.passTurn_sink (s : State) : s.passTurn.sink = s.sink := rfl
@[simp] theorem State.passTurn_turns (s : State) : s.passTurn.turns = s.turns.tail := rfl
@[simp] theorem State.passTurn_replies (s : State) : s.passTurn.replies = s.replies := rfl
@[simp] theorem State.passTurn_epoch (s : State) : s.passTurn.epoch = s.epoch := rfl

/-! ### acceptWord: the presented word is accepted -/

@[simp] theorem State.acceptWord_cfg (s : State) : s.acceptWord.cfg = s.cfg := rfl
@[simp] theorem State.acceptWord_acc (s : State) : s.acceptWord.acc = s.acc := rfl
@[simp] theorem State.acceptWord_kscale (s : State) : s.acceptWord.kscale = s.kscale := rfl
@[simp] theorem State.acceptWord_buf (s : State) : s.acceptWord.buf = s.buf := rfl
@[simp] theorem State.acceptWord_wrPtr (s : State) : s.acceptWord.wrPtr = s.wrPtr := rfl
@[simp] theorem State.acceptWord_vcnt (s : State) : s.acceptWord.vcnt = s.vcnt := rfl
@[simp] theorem State.acceptWord_own (s : State) : s.acceptWord.own = s.own := rfl
@[simp] theorem State.acceptWord_eos (s : State) : s.acceptWord.eos = s.eos := rfl
@[simp] theorem State.acceptWord_sfail (s : State) : s.acceptWord.sfail = s.sfail := rfl
@[simp] theorem State.acceptWord_errc (s : State) : s.acceptWord.errc = s.errc := rfl
@[simp] theorem State.acceptWord_errw (s : State) : s.acceptWord.errw = s.errw := rfl
@[simp] theorem State.acceptWord_cmd (s : State) : s.acceptWord.cmd = s.cmd.tail := rfl
@[simp] theorem State.acceptWord_sink (s : State) : s.acceptWord.sink = s.sink := rfl
@[simp] theorem State.acceptWord_turns (s : State) : s.acceptWord.turns = s.turns.tail := rfl
@[simp] theorem State.acceptWord_replies (s : State) : s.acceptWord.replies = s.replies := rfl
@[simp] theorem State.acceptWord_epoch (s : State) : s.acceptWord.epoch = s.epoch := rfl

/-! ### acceptSink: the requested operation is performed -/

@[simp] theorem State.acceptSink_cfg (s : State) : s.acceptSink.cfg = s.cfg := rfl
@[simp] theorem State.acceptSink_acc (s : State) : s.acceptSink.acc = s.acc := rfl
@[simp] theorem State.acceptSink_kscale (s : State) : s.acceptSink.kscale = s.kscale := rfl
@[simp] theorem State.acceptSink_buf (s : State) : s.acceptSink.buf = s.buf := rfl
@[simp] theorem State.acceptSink_wrPtr (s : State) : s.acceptSink.wrPtr = s.wrPtr := rfl
@[simp] theorem State.acceptSink_vcnt (s : State) : s.acceptSink.vcnt = s.vcnt := rfl
@[simp] theorem State.acceptSink_own (s : State) : s.acceptSink.own = s.own := rfl
@[simp] theorem State.acceptSink_eos (s : State) : s.acceptSink.eos = s.eos := rfl
@[simp] theorem State.acceptSink_sfail (s : State) : s.acceptSink.sfail = s.sfail := rfl
@[simp] theorem State.acceptSink_errc (s : State) : s.acceptSink.errc = s.errc := rfl
@[simp] theorem State.acceptSink_errw (s : State) : s.acceptSink.errw = s.errw := rfl
@[simp] theorem State.acceptSink_cmd (s : State) : s.acceptSink.cmd = s.cmd := rfl
@[simp] theorem State.acceptSink_sink (s : State) : s.acceptSink.sink = s.sink.tail := rfl
@[simp] theorem State.acceptSink_turns (s : State) : s.acceptSink.turns = s.turns.tail := rfl
@[simp] theorem State.acceptSink_replies (s : State) : s.acceptSink.replies = s.replies := rfl
@[simp] theorem State.acceptSink_epoch (s : State) : s.acceptSink.epoch = s.epoch := rfl

/-! ### raise: the fault action -/

@[simp] theorem State.raise_cfg (s : State) (c : FaultCode) (w : Word) : (s.raise c w).cfg = s.cfg := rfl
@[simp] theorem State.raise_acc (s : State) (c : FaultCode) (w : Word) : (s.raise c w).acc = s.acc := rfl
@[simp] theorem State.raise_kscale (s : State) (c : FaultCode) (w : Word) : (s.raise c w).kscale = s.kscale := rfl
@[simp] theorem State.raise_buf (s : State) (c : FaultCode) (w : Word) : (s.raise c w).buf = s.buf := rfl
@[simp] theorem State.raise_wrPtr (s : State) (c : FaultCode) (w : Word) : (s.raise c w).wrPtr = s.wrPtr := rfl
@[simp] theorem State.raise_vcnt (s : State) (c : FaultCode) (w : Word) : (s.raise c w).vcnt = s.vcnt := rfl
@[simp] theorem State.raise_own (s : State) (c : FaultCode) (w : Word) : (s.raise c w).own = s.own := rfl
@[simp] theorem State.raise_eos (s : State) (c : FaultCode) (w : Word) : (s.raise c w).eos = s.eos := rfl
@[simp] theorem State.raise_sfail (s : State) (c : FaultCode) (w : Word) : (s.raise c w).sfail = s.sfail := rfl
@[simp] theorem State.raise_errc (s : State) (c : FaultCode) (w : Word) :
    (s.raise c w).errc = if s.errc = none then some c else s.errc := rfl
@[simp] theorem State.raise_errw (s : State) (c : FaultCode) (w : Word) :
    (s.raise c w).errw = if s.errc = none then w else s.errw := rfl
@[simp] theorem State.raise_cmd (s : State) (c : FaultCode) (w : Word) : (s.raise c w).cmd = s.cmd := rfl
@[simp] theorem State.raise_sink (s : State) (c : FaultCode) (w : Word) : (s.raise c w).sink = s.sink := rfl
@[simp] theorem State.raise_turns (s : State) (c : FaultCode) (w : Word) : (s.raise c w).turns = s.turns := rfl
@[simp] theorem State.raise_replies (s : State) (c : FaultCode) (w : Word) : (s.raise c w).replies = s.replies := rfl
@[simp] theorem State.raise_epoch (s : State) (c : FaultCode) (w : Word) : (s.raise c w).epoch = s.epoch := rfl

/-! ### resetEvent: the reset event -/

@[simp] theorem State.resetEvent_cfg (s : State) : s.resetEvent.cfg = s.cfg := rfl
@[simp] theorem State.resetEvent_acc (s : State) : s.resetEvent.acc = 0 := rfl
@[simp] theorem State.resetEvent_kscale (s : State) : s.resetEvent.kscale = s.cfg.kReset := rfl
@[simp] theorem State.resetEvent_buf (s : State) : s.resetEvent.buf = [] := rfl
@[simp] theorem State.resetEvent_wrPtr (s : State) : s.resetEvent.wrPtr = 0 := rfl
@[simp] theorem State.resetEvent_vcnt (s : State) : s.resetEvent.vcnt = 0 := rfl
@[simp] theorem State.resetEvent_own (s : State) : s.resetEvent.own = false := rfl
@[simp] theorem State.resetEvent_eos (s : State) : s.resetEvent.eos = false := rfl
@[simp] theorem State.resetEvent_sfail (s : State) : s.resetEvent.sfail = false := rfl
@[simp] theorem State.resetEvent_errc (s : State) : s.resetEvent.errc = none := rfl
@[simp] theorem State.resetEvent_errw (s : State) : s.resetEvent.errw = 0 := rfl
@[simp] theorem State.resetEvent_cmd (s : State) : s.resetEvent.cmd = s.cmd := rfl
@[simp] theorem State.resetEvent_sink (s : State) : s.resetEvent.sink = s.sink := rfl
@[simp] theorem State.resetEvent_turns (s : State) : s.resetEvent.turns = s.turns := rfl
@[simp] theorem State.resetEvent_replies (s : State) : s.resetEvent.replies = s.replies := rfl
@[simp] theorem State.resetEvent_epoch (s : State) : s.resetEvent.epoch = s.epoch + 1 := rfl

/-! ### setPhase: ACC <- a -/

@[simp] theorem State.setPhase_cfg (s : State) (a : Phase) : (s.setPhase a).cfg = s.cfg := rfl
@[simp] theorem State.setPhase_acc (s : State) (a : Phase) : (s.setPhase a).acc = a := rfl
@[simp] theorem State.setPhase_kscale (s : State) (a : Phase) : (s.setPhase a).kscale = s.kscale := rfl
@[simp] theorem State.setPhase_buf (s : State) (a : Phase) : (s.setPhase a).buf = s.buf := rfl
@[simp] theorem State.setPhase_wrPtr (s : State) (a : Phase) : (s.setPhase a).wrPtr = s.wrPtr := rfl
@[simp] theorem State.setPhase_vcnt (s : State) (a : Phase) : (s.setPhase a).vcnt = s.vcnt := rfl
@[simp] theorem State.setPhase_own (s : State) (a : Phase) : (s.setPhase a).own = s.own := rfl
@[simp] theorem State.setPhase_eos (s : State) (a : Phase) : (s.setPhase a).eos = s.eos := rfl
@[simp] theorem State.setPhase_sfail (s : State) (a : Phase) : (s.setPhase a).sfail = s.sfail := rfl
@[simp] theorem State.setPhase_errc (s : State) (a : Phase) : (s.setPhase a).errc = s.errc := rfl
@[simp] theorem State.setPhase_errw (s : State) (a : Phase) : (s.setPhase a).errw = s.errw := rfl
@[simp] theorem State.setPhase_cmd (s : State) (a : Phase) : (s.setPhase a).cmd = s.cmd := rfl
@[simp] theorem State.setPhase_sink (s : State) (a : Phase) : (s.setPhase a).sink = s.sink := rfl
@[simp] theorem State.setPhase_turns (s : State) (a : Phase) : (s.setPhase a).turns = s.turns := rfl
@[simp] theorem State.setPhase_replies (s : State) (a : Phase) : (s.setPhase a).replies = s.replies := rfl
@[simp] theorem State.setPhase_epoch (s : State) (a : Phase) : (s.setPhase a).epoch = s.epoch := rfl

/-! ### setScale: KSCALE <- k -/

@[simp] theorem State.setScale_cfg (s : State) (k : Word) : (s.setScale k).cfg = s.cfg := rfl
@[simp] theorem State.setScale_acc (s : State) (k : Word) : (s.setScale k).acc = s.acc := rfl
@[simp] theorem State.setScale_kscale (s : State) (k : Word) : (s.setScale k).kscale = k := rfl
@[simp] theorem State.setScale_buf (s : State) (k : Word) : (s.setScale k).buf = s.buf := rfl
@[simp] theorem State.setScale_wrPtr (s : State) (k : Word) : (s.setScale k).wrPtr = s.wrPtr := rfl
@[simp] theorem State.setScale_vcnt (s : State) (k : Word) : (s.setScale k).vcnt = s.vcnt := rfl
@[simp] theorem State.setScale_own (s : State) (k : Word) : (s.setScale k).own = s.own := rfl
@[simp] theorem State.setScale_eos (s : State) (k : Word) : (s.setScale k).eos = s.eos := rfl
@[simp] theorem State.setScale_sfail (s : State) (k : Word) : (s.setScale k).sfail = s.sfail := rfl
@[simp] theorem State.setScale_errc (s : State) (k : Word) : (s.setScale k).errc = s.errc := rfl
@[simp] theorem State.setScale_errw (s : State) (k : Word) : (s.setScale k).errw = s.errw := rfl
@[simp] theorem State.setScale_cmd (s : State) (k : Word) : (s.setScale k).cmd = s.cmd := rfl
@[simp] theorem State.setScale_sink (s : State) (k : Word) : (s.setScale k).sink = s.sink := rfl
@[simp] theorem State.setScale_turns (s : State) (k : Word) : (s.setScale k).turns = s.turns := rfl
@[simp] theorem State.setScale_replies (s : State) (k : Word) : (s.setScale k).replies = s.replies := rfl
@[simp] theorem State.setScale_epoch (s : State) (k : Word) : (s.setScale k).epoch = s.epoch := rfl

/-! ### appendSlot: one slot appended -/

@[simp] theorem State.appendSlot_cfg (s : State) (v : Word) : (s.appendSlot v).cfg = s.cfg := rfl
@[simp] theorem State.appendSlot_acc (s : State) (v : Word) : (s.appendSlot v).acc = s.acc := rfl
@[simp] theorem State.appendSlot_kscale (s : State) (v : Word) : (s.appendSlot v).kscale = s.kscale := rfl
@[simp] theorem State.appendSlot_buf (s : State) (v : Word) :
    (s.appendSlot v).buf = s.buf.writeSlot s.wrPtr.toNat v := rfl
@[simp] theorem State.appendSlot_wrPtr (s : State) (v : Word) :
    (s.appendSlot v).wrPtr = if decide (s.wrPtr.toNat + 1 = s.cfg.bufCap) then 0 else s.wrPtr + 1 := rfl
@[simp] theorem State.appendSlot_vcnt (s : State) (v : Word) :
    (s.appendSlot v).vcnt =
      if decide (s.wrPtr.toNat + 1 = s.cfg.bufCap) then BitVec.ofNat 24 s.cfg.bufCap else s.vcnt := rfl
@[simp] theorem State.appendSlot_own (s : State) (v : Word) :
    (s.appendSlot v).own = (decide (s.wrPtr.toNat + 1 = s.cfg.bufCap) || s.own) := rfl
@[simp] theorem State.appendSlot_eos (s : State) (v : Word) : (s.appendSlot v).eos = s.eos := rfl
@[simp] theorem State.appendSlot_sfail (s : State) (v : Word) : (s.appendSlot v).sfail = s.sfail := rfl
@[simp] theorem State.appendSlot_errc (s : State) (v : Word) : (s.appendSlot v).errc = s.errc := rfl
@[simp] theorem State.appendSlot_errw (s : State) (v : Word) : (s.appendSlot v).errw = s.errw := rfl
@[simp] theorem State.appendSlot_cmd (s : State) (v : Word) : (s.appendSlot v).cmd = s.cmd := rfl
@[simp] theorem State.appendSlot_sink (s : State) (v : Word) : (s.appendSlot v).sink = s.sink := rfl
@[simp] theorem State.appendSlot_turns (s : State) (v : Word) : (s.appendSlot v).turns = s.turns := rfl
@[simp] theorem State.appendSlot_replies (s : State) (v : Word) : (s.appendSlot v).replies = s.replies := rfl
@[simp] theorem State.appendSlot_epoch (s : State) (v : Word) : (s.appendSlot v).epoch = s.epoch := rfl

/-! ### endStream: the effect of FLUSH -/

@[simp] theorem State.endStream_cfg (s : State) : s.endStream.cfg = s.cfg := rfl
@[simp] theorem State.endStream_acc (s : State) : s.endStream.acc = s.acc := rfl
@[simp] theorem State.endStream_kscale (s : State) : s.endStream.kscale = s.kscale := rfl
@[simp] theorem State.endStream_buf (s : State) :
    s.endStream.buf =
      if decide (s.wrPtr.toNat ≠ 0) then s.buf.zeroSlots s.wrPtr.toNat (s.cfg.bufCap - s.wrPtr.toNat) else s.buf := rfl
@[simp] theorem State.endStream_wrPtr (s : State) : s.endStream.wrPtr = 0 := rfl
@[simp] theorem State.endStream_vcnt (s : State) :
    s.endStream.vcnt = if decide (s.wrPtr.toNat ≠ 0) then s.wrPtr else s.vcnt := rfl
@[simp] theorem State.endStream_own (s : State) : s.endStream.own = (decide (s.wrPtr.toNat ≠ 0) || s.own) := rfl
@[simp] theorem State.endStream_eos (s : State) : s.endStream.eos = true := rfl
@[simp] theorem State.endStream_sfail (s : State) : s.endStream.sfail = s.sfail := rfl
@[simp] theorem State.endStream_errc (s : State) : s.endStream.errc = s.errc := rfl
@[simp] theorem State.endStream_errw (s : State) : s.endStream.errw = s.errw := rfl
@[simp] theorem State.endStream_cmd (s : State) : s.endStream.cmd = s.cmd := rfl
@[simp] theorem State.endStream_sink (s : State) : s.endStream.sink = s.sink := rfl
@[simp] theorem State.endStream_turns (s : State) : s.endStream.turns = s.turns := rfl
@[simp] theorem State.endStream_replies (s : State) : s.endStream.replies = s.replies := rfl
@[simp] theorem State.endStream_epoch (s : State) : s.endStream.epoch = s.epoch := rfl

/-! ### release: the effect of REL -/

@[simp] theorem State.release_cfg (s : State) (ok : Bool) : (s.release ok).cfg = s.cfg := rfl
@[simp] theorem State.release_acc (s : State) (ok : Bool) : (s.release ok).acc = s.acc := rfl
@[simp] theorem State.release_kscale (s : State) (ok : Bool) : (s.release ok).kscale = s.kscale := rfl
@[simp] theorem State.release_buf (s : State) (ok : Bool) : (s.release ok).buf = s.buf := rfl
@[simp] theorem State.release_wrPtr (s : State) (ok : Bool) : (s.release ok).wrPtr = s.wrPtr := rfl
@[simp] theorem State.release_vcnt (s : State) (ok : Bool) : (s.release ok).vcnt = s.vcnt := rfl
@[simp] theorem State.release_own (s : State) (ok : Bool) : (s.release ok).own = false := rfl
@[simp] theorem State.release_eos (s : State) (ok : Bool) : (s.release ok).eos = s.eos := rfl
@[simp] theorem State.release_sfail (s : State) (ok : Bool) :
    (s.release ok).sfail = (s.sfail || (s.own && !ok)) := rfl
@[simp] theorem State.release_errc (s : State) (ok : Bool) : (s.release ok).errc = s.errc := rfl
@[simp] theorem State.release_errw (s : State) (ok : Bool) : (s.release ok).errw = s.errw := rfl
@[simp] theorem State.release_cmd (s : State) (ok : Bool) : (s.release ok).cmd = s.cmd := rfl
@[simp] theorem State.release_sink (s : State) (ok : Bool) : (s.release ok).sink = s.sink := rfl
@[simp] theorem State.release_turns (s : State) (ok : Bool) : (s.release ok).turns = s.turns := rfl
@[simp] theorem State.release_replies (s : State) (ok : Bool) : (s.release ok).replies = s.replies := rfl
@[simp] theorem State.release_epoch (s : State) (ok : Bool) : (s.release ok).epoch = s.epoch := rfl

/-! ### reply: an acknowledged RD -/

@[simp] theorem State.reply_cfg (s : State) (slot : Count) : (s.reply slot).cfg = s.cfg := rfl
@[simp] theorem State.reply_acc (s : State) (slot : Count) : (s.reply slot).acc = s.acc := rfl
@[simp] theorem State.reply_kscale (s : State) (slot : Count) : (s.reply slot).kscale = s.kscale := rfl
@[simp] theorem State.reply_buf (s : State) (slot : Count) : (s.reply slot).buf = s.buf := rfl
@[simp] theorem State.reply_wrPtr (s : State) (slot : Count) : (s.reply slot).wrPtr = s.wrPtr := rfl
@[simp] theorem State.reply_vcnt (s : State) (slot : Count) : (s.reply slot).vcnt = s.vcnt := rfl
@[simp] theorem State.reply_own (s : State) (slot : Count) : (s.reply slot).own = s.own := rfl
@[simp] theorem State.reply_eos (s : State) (slot : Count) : (s.reply slot).eos = s.eos := rfl
@[simp] theorem State.reply_sfail (s : State) (slot : Count) : (s.reply slot).sfail = s.sfail := rfl
@[simp] theorem State.reply_errc (s : State) (slot : Count) : (s.reply slot).errc = s.errc := rfl
@[simp] theorem State.reply_errw (s : State) (slot : Count) : (s.reply slot).errw = s.errw := rfl
@[simp] theorem State.reply_cmd (s : State) (slot : Count) : (s.reply slot).cmd = s.cmd := rfl
@[simp] theorem State.reply_sink (s : State) (slot : Count) : (s.reply slot).sink = s.sink := rfl
@[simp] theorem State.reply_turns (s : State) (slot : Count) : (s.reply slot).turns = s.turns := rfl
@[simp] theorem State.reply_replies (s : State) (slot : Count) :
    (s.reply slot).replies = s.replies ++ [(slot, s.slotValue slot.toNat)] := rfl
@[simp] theorem State.reply_epoch (s : State) (slot : Count) : (s.reply slot).epoch = s.epoch := rfl

end Sys2Proof.Machine
end

