-- ==== Sys2Proof/Laws/Ops.lean ====
section
/-! SUPPORT. For each meaning and shared operation, one lemma that says all it can do: cited instead of unfolded. -/

namespace Sys2Proof.Machine

/-! ### Meanings: if they answer next `t`, then … -/

/-- All that `MOD` can do when it answers a next state. -/
theorem execMod_cases {dev : Int} {s t : State} (h : execMod dev s = .next t) :
    (s.faulted = true ∧ t = s) ∨
    (s.faulted = false ∧ s.ended = true ∧ t = s.raise .stopped (encode (.mod dev))) ∨
    (s.faulted = false ∧ s.ended = false ∧ s.own = true ∧ t = s) ∨
    (s.faulted = false ∧ s.ended = false ∧ s.own = false ∧ s.wrPtr.toNat < s.cfg.bufCap ∧ t = s.modulate dev) := by
  unfold execMod at h
  split at h
  · next hf => exact .inl ⟨hf, by cases h; rfl⟩
  · next hf =>
    have hf : s.faulted = false := by simpa using hf
    split at h
    · next he => exact .inr (.inl ⟨hf, he, by cases h; rfl⟩)
    · next he =>
      have he : s.ended = false := by simpa using he
      split at h
      · next ho => exact .inr (.inr (.inl ⟨hf, he, ho, by cases h; rfl⟩))
      · next ho =>
        split at h
        · next hp => exact .inr (.inr (.inr ⟨hf, he, by simpa using ho, hp, by cases h; rfl⟩))
        · cases h

/-- All that `LDKL` can do. -/
theorem execLdkl_eq (v : Half) (s : State) :
    execLdkl v s = .next (if s.faulted then s else s.setScale (withLowHalf s.kscale v)) := by
  unfold execLdkl; split <;> rfl

/-- All that `LDKH` can do. -/
theorem execLdkh_eq (v : Half) (s : State) :
    execLdkh v s = .next (if s.faulted then s else s.setScale (withHighHalf s.kscale v)) := by
  unfold execLdkh; split <;> rfl

/-- All that `CLRPH` can do. -/
theorem execClrph_eq (s : State) : execClrph s = .next (if s.faulted then s else s.setPhase 0) := by
  unfold execClrph; split <;> rfl

/-- All that `FLUSH` can do. -/
theorem execFlush_eq (s : State) :
    execFlush s =
      .next (if s.faulted then s else if s.ended then s.raise .stopped (encode .flush) else s.endStream) := by
  unfold execFlush; split
  · rfl
  · split <;> rfl

/-! ### The turn -/

/-- The command agent's turn with a word presented. -/
theorem State.action_of_presented {s : State} {w : Word} {ws : List Word} {ts : List Agent}
    (ht : s.turns = .command :: ts) (hc : s.cmd = w :: ws) : s.action = s.commandAction w := by
  simp [State.action, ht, hc]

/-- The sink agent's turn with an operation requested. -/
theorem State.action_of_requested {s : State} {op : SinkOp} {ops : List SinkOp} {ts : List Agent}
    (ht : s.turns = .sink :: ts) (hs : s.sink = op :: ops) : s.action = s.sinkAction op := by
  simp [State.action, ht, hs]

/-- Where each action of the command agent comes from. -/
theorem State.commandAction_cases (s : State) (w : Word) :
    (s.faulted = true ∧ s.commandAction w = .discard w) ∨
    (s.faulted = false ∧ ∃ c, decode w = .illegal c ∧ s.commandAction w = .illegal c w) ∨
    (s.faulted = false ∧ ∃ i, decode w = .ok i ∧ s.holds i = true ∧ s.commandAction w = .held i) ∨
    (s.faulted = false ∧ ∃ i, decode w = .ok i ∧ s.holds i = false ∧ s.commandAction w = .command i) := by
  unfold State.commandAction
  cases hf : s.faulted with
  | true => simp
  | false =>
    cases hd : decode w with
    | illegal c => simp
    | ok i => cases hh : s.holds i <;> simp [hh]

/-- All that one step can do when it answers a next state, by what the turn is. -/
theorem step_cases {s t : State} (h : step s = .next t) :
    ((s.action = .idle ∨ (∃ i, s.action = .held i) ∨ ∃ slot, s.action = .wait slot) ∧ t = s.passTurn) ∨
    ((∃ w, s.action = .discard w) ∧ t = s.acceptWord) ∨
    (∃ c w, s.action = .illegal c w ∧ t = s.acceptWord.raise c w) ∨
    (∃ i, s.action = .command i ∧ exec i s.acceptWord = .next t) ∨
    (∃ slot, s.action = .read slot ∧ t = s.acceptSink.reply slot) ∨
    (∃ ok, s.action = .release ok ∧ t = s.acceptSink.release ok) ∨
    (s.action = .reset ∧ t = s.passTurn.resetEvent) := by
  unfold step at h
  cases ha : s.action with
  | idle => rw [ha] at h; cases h; simp
  | held i => rw [ha] at h; cases h; simp
  | discard w => rw [ha] at h; cases h; simp
  | illegal c w => rw [ha] at h; cases h; simp
  | command i => rw [ha] at h; simpa using h
  | wait slot => rw [ha] at h; cases h; simp
  | read slot => rw [ha] at h; cases h; simp
  | release ok => rw [ha] at h; cases h; simp
  | reset => rw [ha] at h; cases h; simp

/-! ### The terms of statements about runs -/

@[simp] theorem collect_zero {α : Type} (f : State → List α) (s : State) : collect f 0 s = [] := rfl

/-- One turn of what a run shows, where the turn has a next state. -/
theorem collect_succ_next {α : Type} (f : State → List α) (k : Nat) {s t : State} (h : step s = .next t) :
    collect f (k + 1) s = f s ++ collect f k t := by simp [collect, h]

@[simp] theorem runSteps_zero (s : State) : runSteps 0 s = .next s := rfl

/-- One turn of a run that goes on. -/
theorem runSteps_succ_next (k : Nat) {s t : State} (h : step s = .next t) : runSteps (k + 1) s = runSteps k t := by
  simp [runSteps, h]

@[simp] theorem State.slotsBelow_zero (s : State) : s.slotsBelow 0 = [] := rfl

@[simp] theorem State.length_slotsBelow (s : State) (n : Nat) : (s.slotsBelow n).length = n := by
  simp [State.slotsBelow]

/-- One more slot. -/
theorem State.slotsBelow_succ (s : State) (n : Nat) : s.slotsBelow (n + 1) = s.slotsBelow n ++ [s.slotValue n] := by
  simp [State.slotsBelow, List.range_succ]

/-- The sink's steps are its reads and its releases. -/
theorem Action.bySink_iff (a : Action) : a.bySink = true ↔ (∃ slot, a = .read slot) ∨ ∃ ok, a = .release ok := by
  cases a <;> simp [Action.bySink]

end Sys2Proof.Machine
end

