-- ==== Sys2Proof/Laws/PerInstr.lean ====
section
/-! SUPPORT. Statements about commands as syntax, made per constructor. -/

namespace Sys2Proof.Laws

/-- A word put together from its three fields gives the fields back (30_encoding.md R61). -/
theorem fields_of_parts (op : BitVec 4) (rsv : BitVec 12) (imm : Half) :
    opField ((op ++ rsv) ++ imm) = op ∧ rsvField ((op ++ rsv) ++ imm) = rsv ∧ immField ((op ++ rsv) ++ imm) = imm := by
  refine ⟨?_, ?_, ?_⟩ <;> apply BitVec.eq_of_getLsbD_eq <;> intro i hi <;>
    simp only [opField, rsvField, immField, BitVec.getLsbD_extractLsb', BitVec.getLsbD_append]
  · have h1 : ¬ (28 + i < 16) := by omega
    have h2 : ¬ (28 + i - 16 < 12) := by omega
    have h3 : 28 + i - 16 - 12 = i := by omega
    simp only [hi, h1, h2, h3, decide_true, Bool.true_and, if_false]
  · have h1 : ¬ (16 + i < 16) := by omega
    have h2 : 16 + i - 16 = i := by omega
    simp only [hi, h1, h2, decide_true, Bool.true_and, if_false, if_true]
  · simp only [hi, Nat.zero_add, decide_true, Bool.true_and, if_true]

/-- The word of a command has the command's opcode in `op`, zero in `rsv`, and its immediate in `imm16`. -/
def EncodedFields.Statement (i : Instr) : Prop :=
  opField (encode i) = opcodeBits (opcodeOfInstr i) ∧ rsvField (encode i) = 0 ∧ immField (encode i) = immOfInstr i

/-- `MOD`: op 1. -/
theorem EncodedFields.mod (dev : Int) : EncodedFields.Statement (.mod dev) := fields_of_parts _ _ _

/-- `LDKL`: op 2. -/
theorem EncodedFields.ldkl (v : Half) : EncodedFields.Statement (.ldkl v) := fields_of_parts _ _ _

/-- `LDKH`: op 3. -/
theorem EncodedFields.ldkh (v : Half) : EncodedFields.Statement (.ldkh v) := fields_of_parts _ _ _

/-- `CLRPH`: op 4. -/
theorem EncodedFields.clrph : EncodedFields.Statement .clrph := fields_of_parts _ _ _

/-- `FLUSH`: op 5. -/
theorem EncodedFields.flush : EncodedFields.Statement .flush := fields_of_parts _ _ _

end Sys2Proof.Laws
end

