-- ==== Sys2Proof/Tests/Slice0.lean ====
section
/-! SUPPORT. The model's own tests, one step each on small states, from the vectors of 95_test_vectors.md; the refusals of
the well-formedness checks; and, for every statement with hypotheses, states and operands that meet them. -/

namespace Sys2Proof.Tests

-- One theorem at a time: the kernel evaluations, run all at once, would each hold a thread of their own.
set_option Elab.async false

open Sys2Proof.Machine

/-! ### Helpers -/

/-- The default configuration with another buffer size. -/
def cfgOf (cap : Nat) : Config := { defaultConfig with bufCap := cap }

/-- The reset state with a buffer of `cap` slots. -/
def fresh (cap : Nat) : State := { State.reset with cfg := cfgOf cap }

/-- Slot 0 written with the pair of phase 0. -/
def oneSlot : Memory := Memory.writeSlot [] 0 0x00007FFF

/-- A buffer of one slot, handed over. -/
def pushed : State := { fresh 1 with own := true, vcnt := 1, buf := oneSlot }

/-- A fill of two slots, one of them written. -/
def filling : State := { fresh 2 with wrPtr := 1, buf := oneSlot }

/-- The state an answer holds, or the given one. -/
def after (a : Answer) (s : State) : State :=
  match a with
  | .next t => t
  | .fault _ => s
  | .refused _ => s

/-- `s` with words to come, sink operations to come and turns. -/
def facing (s : State) (cmd : List Word) (sink : List SinkOp) (turns : List Agent) : State :=
  { s with cmd := cmd, sink := sink, turns := turns }

/-! ### Well-formedness refuses (00_scope.md R7, 30_encoding.md R68, 20_memory.md R48) -/

theorem test_wf_refuses_large_deviation : (Instr.mod 32768).wf = false := by decide
theorem test_wf_refuses_small_deviation : (Instr.mod (-32769)).wf = false := by decide
theorem test_wf_accepts_extremes : (Instr.mod 32767).wf = true ∧ (Instr.mod (-32768)).wf = true := by decide
theorem test_amp_refuses_bounds :
    ({ defaultConfig with amp := 0 }).ampOk = false ∧ ({ defaultConfig with amp := 32768 }).ampOk = false := by decide
theorem test_cap_refuses_bounds : (cfgOf 0).capOk = false ∧ (cfgOf (2 ^ 24)).capOk = false := by decide
theorem test_axes_refuses_wrong_end : ({ defaultConfig with amp := 32766 }).axesOk = false := by decide +kernel
theorem test_axes_refuses_short_table : ({ defaultConfig with quarter := [0, 32767] }).axesOk = false := by decide
theorem test_monotone_refuses_fall : ({ defaultConfig with quarter := [0, 2, 1] }).monotoneOk = false := by decide
theorem test_norm_refuses_square : ({ defaultConfig with quarter := [32767, 32767] }).normOk = false := by decide
theorem test_config_legal (cap : Nat) (h1 : 1 ≤ cap) (h2 : cap ≤ 2 ^ 24 - 1) : (cfgOf cap).wf = true := by
  have h : ({ defaultConfig with bufCap := 1 } : Config).wf = true := by decide +kernel
  simp only [Config.wf, Bool.and_eq_true] at h ⊢
  have hcap : (cfgOf cap).capOk = true := by
    simp only [Config.capOk, cfgOf, Bool.and_eq_true]
    exact ⟨decide_eq_true h1, decide_eq_true h2⟩
  exact ⟨⟨⟨⟨h.1.1.1.1, hcap⟩, h.1.1.2⟩, h.1.2⟩, h.2⟩

/-! ### Words written out from 30_encoding.md R61, R62: op, rsv, imm16 -/

theorem test_decode_mod : decode 0b0001_000000000000_1100000000000000 = .ok (.mod (-16384)) := by decide
theorem test_decode_ldkl : decode 0b0010_000000000000_0001001000110100 = .ok (.ldkl 0x1234) := by decide
theorem test_decode_ldkh : decode 0b0011_000000000000_1000000000000000 = .ok (.ldkh 0x8000) := by decide
theorem test_decode_clrph : decode 0b0100_000000000000_0000000000000000 = .ok .clrph := by decide
theorem test_decode_flush : decode 0b0101_000000000000_0000000000000000 = .ok .flush := by decide
theorem test_decode_refuses_idle_bus :
    decode 0x00000000 = .illegal .illop ∧ decode 0xFFFFFFFF = .illegal .illop ∧ decode 0x60000000 = .illegal .illop := by
  decide
theorem test_decode_refuses_reserved :
    decode 0x10014000 = .illegal .rsvd ∧ decode 0x40000001 = .illegal .rsvd ∧ decode 0x50000001 = .illegal .rsvd := by
  decide
theorem test_encode_words :
    encode (.mod (-16384)) = 0x1000C000 ∧ encode (.ldkl 0x1234) = 0x20001234 ∧ encode (.ldkh 0x8000) = 0x30008000 ∧
      encode .clrph = 0x40000000 ∧ encode .flush = 0x50000000 := by decide
theorem test_table_word : decodeTableWord 32 0x10004000 = some (.mod 16384) := by decide

/-- 95_test_vectors.md P1: the bytes of steps 1 to 3. -/
theorem test_words_of_bytes :
    wordsOfBytes [0x01, 0xA0, 0x00, 0x20, 0x00, 0x50, 0x00, 0x30, 0x00, 0x40, 0x00, 0x10] =
      [0x2000A001, 0x30005000, 0x10004000] := by decide

/-! ### The table: 95_test_vectors.md T-ROM -/

theorem test_rom_checksums : romQuarter.sum = 5356550 ∧ (romQuarter.map fun q => q * q).sum = 137967051146 := by
  decide +kernel
theorem test_rom_spots :
    cosRom defaultConfig 80 = 28898 ∧ sinRom defaultConfig 80 = 15446 ∧ cosRom defaultConfig 1023 = 32766 ∧
      sinRom defaultConfig 1023 = -201 ∧ cosRom defaultConfig 513 = -32766 ∧ sinRom defaultConfig 513 = -201 ∧
      cosRom defaultConfig 768 = 0 ∧ sinRom defaultConfig 768 = -32767 := by decide +kernel

/-! ### One step each -/

/-- T-MOD row 7. -/
theorem test_mod_most_negative_step :
    let t := after (exec (.mod (-32768)) { fresh 4 with kscale := 0xFFFFFFFF }) (fresh 4)
    t.acc = 0x800000008000 ∧ t.buf.slot 0 = some 0x00008001 ∧ t.wrPtr = 1 := by decide +kernel

/-- T-MOD, pointer behaviour, and T-SRC-1 row 4: the last slot hands over. -/
theorem test_mod_hands_over :
    let t := after (exec (.mod 16384) { fresh 4 with acc := 0x3C007800C000, wrPtr := 3 }) (fresh 4)
    t.acc = 0x5000A0010000 ∧ t.buf.slot 3 = some 0x7641CF05 ∧ t.wrPtr = 0 ∧ t.vcnt = 4 ∧ t.own = true ∧
      t.statusWord = 0x00000001 := by decide +kernel

/-- T-CFG rows 1 and 9. -/
theorem test_ldkl :
    (after (exec (.ldkl 0x1234) (fresh 4)) (fresh 4)).kscale = 0x50001234 ∧
      (after (exec (.ldkl 1) { fresh 4 with errc := some .illop }) (fresh 4)).kscale = 0x5000A001 := by decide +kernel

/-- T-CFG row 2. -/
theorem test_ldkh : (after (exec (.ldkh 0x8000) (fresh 4)) (fresh 4)).kscale = 0x8000A001 := by decide +kernel

/-- T-CFG rows 5 and 8. -/
theorem test_clrph :
    let s := { fresh 4 with acc := 0x800000000000, wrPtr := 2, eos := true }
    (after (exec .clrph s) s).acc = 0 ∧ (after (exec .clrph s) s).wrPtr = 2 ∧ (after (exec .clrph s) s).errc = none := by
  decide +kernel

/-- T-FLUSH row 1. -/
theorem test_flush_pads :
    let t := after (exec .flush { fresh 4 with wrPtr := 2 }) (fresh 4)
    t.buf.slot 1 = none ∧ t.buf.slot 2 = some 0 ∧ t.buf.slot 3 = some 0 ∧ t.vcnt = 2 ∧ t.statusWord = 0x00000003 := by
  decide +kernel

/-- T-FLUSH row 6. -/
theorem test_flush_after_end :
    let t := after (exec .flush { fresh 4 with eos := true }) (fresh 4)
    t.errc = some .stopped ∧ t.errw = 0x50000000 ∧ t.own = false := by decide +kernel

/-- T-SINK rows 1 and 3. -/
theorem test_read :
    let s := { pushed with turns := [.sink], sink := [.rd 0] }
    let r := { pushed with turns := [.sink], sink := [.rd 1] }
    (after (step s) s).replies = [(0, 0x00007FFF)] ∧ (after (step s) s).sink = [] ∧
      (after (step r) r).replies = [] ∧ (after (step r) r).sink = [.rd 1] := by decide +kernel

/-- T-SINK rows 5 and 6. -/
theorem test_release :
    let s := { pushed with turns := [.sink], sink := [.rel false] }
    let r := { fresh 4 with turns := [.sink], sink := [.rel false] }
    (after (step s) s).own = false ∧ (after (step s) s).statusWord = 0x00000004 ∧ (after (step s) s).faultOut = true ∧
      (after (step r) r).statusWord = 0 := by decide +kernel

/-- T-FAULT rows 7, 8 and 10. -/
theorem test_fault_priority :
    let s := { fresh 4 with eos := true }
    (after (step (s.withFetchWord 32 0x60000001)) s).statusWord = 0x0000000A ∧
      (after (step (s.withFetchWord 32 0x10010000)) s).statusWord = 0x00000012 ∧
      (after (step ({ fresh 4 with errc := some .illop, errw := 0xFFFFFFFF }.withFetchWord 32 0x60000000)) s).errw =
        0xFFFFFFFF := by decide +kernel

/-- T-FAULT rows 12 and 13. -/
theorem test_hold :
    (after (step (pushed.withFetchWord 32 0x10010000)) pushed).statusWord = 0x00000011 ∧
      (after (step (pushed.withFetchWord 32 0x10000000)) pushed).statusWord = 0x00000001 ∧
      (after (step (pushed.withFetchWord 32 0x10000000)) pushed).cmd = [0x10000000] := by decide +kernel

/-- The first instruction after reset runs: 40_modulate.md R81's worked example. -/
theorem test_first_instruction :
    let t := after (step (State.reset.withFetchWord 32 0x10004000)) State.reset
    t.acc = 0x140028004000 ∧ t.buf.slot 0 = some 0x3C5670E2 ∧ t.wrPtr = 1 ∧ t.cmd = [] := by decide +kernel

/-- T-RESET. -/
theorem test_reset :
    let s := { pushed with acc := 0xFFC000000000, kscale := 0x80000000, wrPtr := 1, eos := true, sfail := true,
                           errc := some .stopped, errw := 0x10000064, turns := [.reset], cmd := [0x10000000] }
    let t := after (step s) s
    t.acc = 0 ∧ t.kscale = 0x5000A001 ∧ t.statusWord = 0 ∧ t.errw = 0 ∧ t.buf = [] ∧ t.cmd = [0x10000000] := by
  decide +kernel

/-! ### Listings (30_encoding.md R68, R69) -/

theorem test_listing_mod :
    readLine ['M', 'O', 'D', ' ', '-', '1', '6', '3', '8', '4', ' ', ';', ' ', 'x'] = some [.word 0x1000C000] ∧
      readLine ['M', 'O', 'D', ' ', '0', 'x', 'F', 'F', 'F', 'F'] = some [.word 0x1000FFFF] ∧
      readLine ['M', 'O', 'D', ' ', '3', '2', '7', '6', '8'] = none := by decide +kernel
theorem test_listing_repeat :
    readLine ['M', 'O', 'D', ' ', '1', ' ', '×', ' ', '2'] = some [.word 0x10000001, .word 0x10000001] := by
  decide +kernel
theorem test_listing_ldk :
    readLine ['L', 'D', 'K', ' ', '0', 'x', '8', '0', '0', '0', '_', '0', '0', '0', '0'] =
      some [.word 0x20000000, .word 0x30008000] := by decide +kernel
theorem test_listing_no_digit :
    readLiteral ['_'] = none ∧ readLiteral ['0', 'x', '_'] = none ∧ readLiteral ['-'] = none ∧ readLiteral [] = none ∧
      readLiteral ['_', '1', '_'] = some (1, false) := by decide +kernel
theorem test_listing_agents :
    readListing [['@', 'R', 'D', ' ', '3'], ['@', 'R', 'E', 'L', ' ', 'f', 'a', 'i', 'l'], [],
        ['@', 'R', 'E', 'S', 'E', 'T'], ['F', 'L', 'U', 'S', 'H']] =
      some [.sink (.rd 3), .sink (.rel false), .reset, .word 0x50000000] := by decide +kernel

/-! ### States that have the invariants -/

theorem oneSlot_eq : oneSlot = [(0, 0xFF), (1, 0x7F), (2, 0), (3, 0)] := by decide

theorem oneSlot_read_high {a : Nat} (h : 4 ≤ a) : oneSlot.read a = none := by
  have h0 : a ≠ 0 := by omega
  have h1 : a ≠ 1 := by omega
  have h2 : a ≠ 2 := by omega
  have h3 : a ≠ 3 := by omega
  simp [oneSlot_eq, Memory.read, Memory.unlisted, h0, h1, h2, h3]

theorem oneSlot_zero : oneSlot.slot 0 = some 0x00007FFF := by decide

theorem oneSlot_slot {k : Nat} {v : Word} (h : oneSlot.slot k = some v) : k = 0 ∧ v = 0x00007FFF := by
  by_cases hk : k = 0
  · subst hk; rw [oneSlot_zero] at h; exact ⟨rfl, by cases h; rfl⟩
  · have hr : oneSlot.read (4 * k) = none := oneSlot_read_high (by omega)
    simp [Memory.slot, hr] at h

theorem oneSlot_inside {a : Nat} (h : oneSlot.read a ≠ none) : a < 4 := by
  by_contra hc
  exact h (oneSlot_read_high (by omega))

theorem sample_of_phase_zero (cap : Nat) : isSample (cfgOf cap) 0x00007FFF :=
  ⟨0, (by decide +kernel : (0x00007FFF : Word) = samplePair (cfgOf 1) 0)⟩

theorem legal_of_phase_zero : halvesLegal 0x00007FFF := ⟨by decide, by decide⟩

/-- A buffer out at the sink: the invariants with `OWN = 1`. -/
theorem pushed_inv : pushed.Inv where
  config := test_config_legal 1 (by decide) (by decide)
  memory := by decide
  inside := fun a h => oneSlot_inside h
  pointer := by decide
  count := by decide
  owned_pointer := fun _ => rfl
  owned_count := fun _ => by decide
  owned_samples := fun _ k hk => by
    have hk : k < 1 := hk
    obtain rfl : k = 0 := by omega
    exact ⟨_, oneSlot_zero, sample_of_phase_zero 1⟩
  owned_padding := fun _ k h1 h2 => by
    have h1 : 1 ≤ k := h1
    have h2 : k < 1 := h2
    omega
  filled := fun h => by exact absurd h (by decide)
  halves := fun k v h => by rw [(oneSlot_slot h).2]; exact legal_of_phase_zero
  ended_empty := fun h => by exact absurd h (by decide)

/-- A fill in progress: the invariants with `OWN = 0`. -/
theorem filling_inv : filling.Inv where
  config := test_config_legal 2 (by decide) (by decide)
  memory := by decide
  inside := fun a h => by have := oneSlot_inside h; show a < 8; omega
  pointer := by decide
  count := by decide
  owned_pointer := fun h => by exact absurd h (by decide)
  owned_count := fun h => by exact absurd h (by decide)
  owned_samples := fun h => by exact absurd h (by decide)
  owned_padding := fun h => by exact absurd h (by decide)
  filled := fun _ k hk => by
    have hk : k < 1 := hk
    obtain rfl : k = 0 := by omega
    exact ⟨_, oneSlot_zero, sample_of_phase_zero 2⟩
  halves := fun k v h => by rw [(oneSlot_slot h).2]; exact legal_of_phase_zero
  ended_empty := fun h => by exact absurd h (by decide)

/-- What the agents will do does not touch the invariants. -/
theorem inv_facing {s : State} (h : s.Inv) (c : List Word) (k : List SinkOp) (ts : List Agent) :
    (facing s c k ts).Inv :=
  ⟨h.config, h.memory, h.inside, h.pointer, h.count, h.owned_pointer, h.owned_count, h.owned_samples,
    h.owned_padding, h.filled, h.halves, h.ended_empty⟩

/-! ### States and operands that meet the hypotheses of the statements -/

/-- `s` facing one word on the command agent's turn. -/
def facingWord (s : State) (w : Word) : State := facing s [w] [] [.command]

/-- `s` facing one sink operation on the sink agent's turn. -/
def facingSink (s : State) (op : SinkOp) : State := facing s [] [op] [.sink]

/-- A pushed buffer with a `MOD` held, the given sink operations and turns. -/
def holding (ops : List SinkOp) (ts : List Agent) : State := facing pushed [0x10004000] ops ts

theorem facingWord_presents (s : State) (w : Word) : (facingWord s w).presents w := ⟨rfl, rfl⟩

theorem facingSink_requests (s : State) (op : SinkOp) : (facingSink s op).requests op := ⟨rfl, rfl⟩

theorem witness_DecodeInvertsEncode :
    (Instr.mod (-32768)).wf = true ∧ (Instr.mod 32767).wf = true ∧ (Instr.ldkl 0xFFFF).wf = true ∧
      (Instr.ldkh 0).wf = true ∧ Instr.clrph.wf = true ∧ Instr.flush.wf = true := by decide

theorem witness_EncodeInvertsDecode :
    decode 0x10008000 = .ok (.mod (-32768)) ∧ decode 0x10007FFF = .ok (.mod 32767) ∧
      decode 0x2000FFFF = .ok (.ldkl 0xFFFF) ∧ decode 0x30000000 = .ok (.ldkh 0) := by decide

theorem witness_DecodeFollowsMaskTable :
    (0x60000000 : Word) &&& 0xFFFF0000 ≠ 0x10000000 ∧ (0x60000000 : Word) &&& 0xFFFF0000 ≠ 0x20000000 ∧
      (0x60000000 : Word) &&& 0xFFFF0000 ≠ 0x30000000 ∧ (0x60000000 : Word) &&& 0xFFFFFFFF ≠ 0x40000000 ∧
      (0x60000000 : Word) &&& 0xFFFFFFFF ≠ 0x50000000 ∧ (facingWord (fresh 4) 0x60000000).presents 0x60000000 ∧
      (facingWord (fresh 4) 0x60000000).errc = none :=
  ⟨by decide, by decide, by decide, by decide, by decide, facingWord_presents _ _, rfl⟩

/-- One word of each class at the edges of `op`, `rsv` and `imm16`. -/
theorem witness_EveryWordClassified :
    ((0x0FFFFFFF : Word).extractLsb' 28 4).toNat = 0 ∧ ((0x60000000 : Word).extractLsb' 28 4).toNat = 6 ∧
      ((0x10010000 : Word).extractLsb' 28 4).toNat = 1 ∧ (0x10010000 : Word).extractLsb' 16 12 ≠ (0 : BitVec 12) ∧
      ((0x58000000 : Word).extractLsb' 28 4).toNat = 5 ∧ (0x58000000 : Word).extractLsb' 16 12 ≠ (0 : BitVec 12) ∧
      ((0x40000001 : Word).extractLsb' 28 4).toNat = 4 ∧ (0x40000001 : Word).extractLsb' 0 16 ≠ (0 : Half) ∧
      ((0x50008000 : Word).extractLsb' 28 4).toNat = 5 ∧ (0x50008000 : Word).extractLsb' 0 16 ≠ (0 : Half) ∧
      ((0x3000FFFF : Word).extractLsb' 28 4).toNat = 3 ∧ (0x3000FFFF : Word).extractLsb' 16 12 = (0 : BitVec 12) ∧
      ((0x50000000 : Word).extractLsb' 28 4).toNat = 5 ∧ (0x50000000 : Word).extractLsb' 0 16 = (0 : Half) := by
  decide

theorem witness_StepRunsPresentedCommand :
    (facingWord (fresh 4) 0x10004000).presents 0x10004000 ∧ decode 0x10004000 = .ok (.mod 16384) ∧
      (facingWord (fresh 4) 0x10004000).holds (.mod 16384) = false ∧
      (facingWord pushed 0x10004000).presents 0x10004000 ∧
      (facingWord pushed 0x10004000).holds (.mod 16384) = true :=
  ⟨facingWord_presents _ _, by decide, by decide, facingWord_presents _ _, by decide⟩

/-- The held word, the faulted block, the illegal word, the stopped word and the executed one; and a hold that a release
lifts. -/
theorem witness_AcceptanceFollowsHold :
    ((facingWord pushed 0x10004000).presents 0x10004000 ∧ decode 0x10004000 = .ok (.mod 16384) ∧
        pushed.errc = none ∧ pushed.eos = false ∧ pushed.sfail = false ∧ pushed.own = true) ∧
      (facingWord { fresh 4 with errc := some .illop } 0).errc ≠ none ∧
      (decode 0 = .illegal .illop ∧ (facingWord (fresh 4) 0).errc = none) ∧
      (decode 0x50000000 = .ok .flush ∧ (facingWord { fresh 4 with eos := true } 0x50000000).eos = true) ∧
      (holding [.rel true] [.sink]).headHeld ∧
      (after (step (holding [.rel true] [.sink])) pushed).own = false :=
  ⟨⟨facingWord_presents _ _, by decide, rfl, rfl, rfl, rfl⟩, by decide, ⟨by decide, rfl⟩, ⟨by decide, rfl⟩,
    ⟨0x10004000, .mod 16384, rfl, by decide, by decide⟩, by decide +kernel⟩

theorem witness_EveryTurnCompletes :
    (facingWord filling 0x10004000).Inv ∧
      step (facingWord { fresh 4 with wrPtr := 4 } 0x10004000) = .fault .slotOutOfRange :=
  ⟨inv_facing filling_inv _ _ _, rfl⟩

/-- `MOD` on the last slot and on the first, held, after the end, and faulted. -/
theorem witness_ModCommand :
    (((0x10008000 : Word) &&& 0xFFFF0000 = 0x10000000) ∧ encode (.mod (-32768)) = 0x10008000 ∧
        (facingWord pushed (encode (.mod 32767))).presents (encode (.mod 32767)) ∧ pushed.own = true) ∧
      ({ fresh 4 with wrPtr := 3 } : State).wrPtr.toNat < (fresh 4).cfg.bufCap ∧
      (fresh 1).wrPtr.toNat < (fresh 1).cfg.bufCap ∧ (fresh 4).errc = none ∧ (fresh 4).eos = false ∧
      (fresh 4).sfail = false ∧ (fresh 4).own = false ∧
      ((nextPhase 0 (-32768) 0xFFFFFFFF).toNat : Int) = (0 + phaseIncrement (-32768) 0xFFFFFFFF) % 2 ^ 48 ∧
      (tableIndex 0x800000008000).toNat = (0x800000008000 : Phase).toNat / 2 ^ 38 ∧
      ({ fresh 4 with sfail := true } : State).sfail = true ∧ ({ fresh 4 with errc := some .rsvd } : State).errc ≠ none :=
  ⟨⟨by decide, by decide, facingWord_presents _ _, rfl⟩, by decide, by decide, rfl, rfl, rfl, rfl, by decide +kernel,
    by decide, rfl, by decide⟩

theorem witness_ListingEncodings :
    (-32768 : Int) ≤ -32768 ∧ (32767 : Int) ≤ 32767 ∧ (65535 : Nat) ≤ 65535 ∧ (0xFFFFFFFF : Nat) < 2 ^ 32 := by decide

theorem witness_TableProperties : pushed.cfg.wf = true := pushed_inv.config

/-- 41_config.md R104: a negative product has no tuning constant, however close to 0; the product 0 has the constant 0. -/
theorem test_tuning_constant_sign :
    (∀ k : Word, ¬ IsTuningConstant (-(1 / 2 ^ 51)) 1 k) ∧ IsTuningConstant 0 (1 / 48000) 0 :=
  ⟨fun _ h => absurd h.1 (by norm_num), le_refl 0, by norm_num, Or.inl (by norm_num)⟩

theorem witness_ScenarioTuningConstant : (fresh 4).errc = none := rfl

/-- A running state at the first and at the last slot, for the largest and the smallest buffer: it meets the hypotheses of
PhaseAccumulates, TableReadAtTopBits, SampleWrittenAndHandedOver and the loads' clauses about the next `MOD`. -/
theorem witness_running_MOD :
    (fresh 4).errc = none ∧ (fresh 4).eos = false ∧ (fresh 4).sfail = false ∧ (fresh 4).own = false ∧
      (fresh 4).cfg.capOk = true ∧ (fresh 4).cfg.wf = true ∧ (fresh 4).wrPtr.toNat < (fresh 4).cfg.bufCap ∧
      ({ fresh 4 with wrPtr := 3 } : State).wrPtr.toNat = (fresh 4).cfg.bufCap - 1 ∧
      (fresh 1).wrPtr.toNat = (fresh 1).cfg.bufCap - 1 ∧ (cfgOf (2 ^ 24 - 1)).capOk = true :=
  ⟨rfl, rfl, rfl, rfl, by decide, test_config_legal 4 (by decide) (by decide), by decide, by decide, by decide,
    by decide⟩

/-- `MOD` answers a next state that modulates, that faults, and that is held. -/
theorem witness_ModFrame :
    (∃ t, exec (.mod 16384) filling = .next t ∧ t.own = true ∧ t.acc ≠ filling.acc) ∧
      (∃ t, exec (.mod 16384) { filling with eos := true } = .next t ∧ t.errc = some .stopped) ∧
      exec (.mod 16384) pushed = .next pushed :=
  ⟨⟨_, rfl, by decide +kernel, by decide +kernel⟩, ⟨_, rfl, by decide⟩, rfl⟩

theorem witness_StoppedCommandsFault :
    (({ fresh 4 with sfail := true } : State).errc = none ∧ ({ fresh 4 with sfail := true } : State).sfail = true) ∧
      (∃ t, exec (.ldkl 1) { fresh 4 with eos := true } = .next t) ∧
      (∃ t, exec .clrph { fresh 4 with eos := true } = .next t) ∧
      ((holding [.rel false] [.sink, .command]).cmd.head? = some 0x10004000 ∧ decode 0x10004000 = .ok (.mod 16384) ∧
        (holding [.rel false] [.sink, .command]).holds (.mod 16384) = true ∧
        (holding [.rel false] [.sink, .command]).sink.head? = some (.rel false)) :=
  ⟨⟨rfl, rfl⟩, ⟨_, rfl⟩, ⟨_, rfl⟩, rfl, by decide, by decide, rfl⟩

theorem witness_SlotPacking :
    (fresh 4).cfg.wf = true ∧ filling.wrPtr ≠ 0 ∧ filling.errc = none ∧ filling.eos = false ∧ filling.sfail = false :=
  ⟨test_config_legal 4 (by decide) (by decide), by decide, rfl, rfl, rfl⟩

theorem witness_LdklCommand :
    (0x2000FFFF : Word) &&& 0xFFFF0000 = 0x20000000 ∧
      (facingWord pushed (encode (.ldkl 0xFFFF))).presents (encode (.ldkl 0xFFFF)) ∧ (fresh 4).errc = none ∧
      ({ fresh 4 with errc := some .illop } : State).errc ≠ none ∧
      (0xA001 : Half) = (fresh 4).kscale.extractLsb' 0 16 ∧ (fresh 4).kscale = 0x5000A001 :=
  ⟨by decide, facingWord_presents _ _, rfl, by decide, by decide, rfl⟩

theorem witness_LdkhCommand :
    (0x30000000 : Word) &&& 0xFFFF0000 = 0x30000000 ∧
      (facingWord pushed (encode (.ldkh 0))).presents (encode (.ldkh 0)) ∧ (fresh 4).errc = none ∧
      ({ fresh 4 with errc := some .illop } : State).errc ≠ none ∧
      (0x5000 : Half) = (fresh 4).kscale.extractLsb' 16 16 ∧ (fresh 4).kscale = 0x5000A001 :=
  ⟨by decide, facingWord_presents _ _, rfl, by decide, by decide, rfl⟩

theorem witness_ClrphCommand :
    (0x40000000 : Word) &&& 0xFFFFFFFF = 0x40000000 ∧ (0x48000000 : Word).extractLsb' 28 4 = (4 : BitVec 4) ∧
      (0x48000000 : Word).extractLsb' 16 12 ≠ (0 : BitVec 12) ∧ (0x40008000 : Word).extractLsb' 0 16 ≠ (0 : Half) ∧
      (facingWord pushed 0x40000000).presents 0x40000000 ∧ (fresh 4).acc = 0 ∧ (fresh 4).errc = none ∧
      ((tableIndex (nextPhase 0 16384 0x5000A001)).toNat : Int) = ((16384 * 0x5000A001) % 2 ^ 48) / 2 ^ 38 ∧
      (∃ t, step (facingWord pushed 0x50000000) = .next t) ∧ (facingWord pushed 0x50000000).executed = some .flush ∧
      ({ fresh 4 with acc := 0x800000000000 } : State).errc = none :=
  ⟨by decide, by decide, by decide, by decide, facingWord_presents _ _, rfl, rfl, by decide +kernel, ⟨_, rfl⟩,
    by decide, rfl⟩

theorem witness_ConfigurationFrame :
    (∃ t, exec (.ldkl 0xFFFF) pushed = .next t ∧ t.kscale ≠ pushed.kscale) ∧
      (∃ t, exec (.ldkh 0xFFFF) pushed = .next t ∧ t.kscale ≠ pushed.kscale) ∧
      (∃ t, exec .clrph { pushed with acc := 1 } = .next t ∧ t.acc = 0) :=
  ⟨⟨_, rfl, by decide⟩, ⟨_, rfl, by decide⟩, ⟨_, rfl, by decide⟩⟩

theorem witness_SplitConstantLoad :
    (fresh 4).errc = none ∧ (fresh 4).kscale.extractLsb' 16 16 = (0x50001234 : Word).extractLsb' 16 16 ∧
      (fresh 4).kscale.extractLsb' 0 16 = (0x8000A001 : Word).extractLsb' 0 16 := by decide

theorem witness_FlushCommand :
    (0x50000000 : Word) &&& 0xFFFFFFFF = 0x50000000 ∧ (0x50010000 : Word).extractLsb' 28 4 = (5 : BitVec 4) ∧
      (0x50010000 : Word).extractLsb' 16 12 ≠ (0 : BitVec 12) ∧ (facingWord pushed 0x50000000).presents 0x50000000 ∧
      pushed.wrPtr = 0 ∧ pushed.errc = none ∧ pushed.eos = false ∧ pushed.sfail = false ∧ filling.wrPtr ≠ 0 ∧
      ({ fresh 4 with eos := true } : State).eos = true ∧ (∃ t, exec .flush filling = .next t ∧ t.vcnt = 1) ∧
      ({ fresh 4 with wrPtr := 2 } : State).wrPtr = 2 ∧ (fresh 4).cfg.bufCap = 4 ∧ (fresh 4).own = false :=
  ⟨by decide, by decide, by decide, facingWord_presents _ _, rfl, rfl, rfl, rfl, by decide, rfl,
    ⟨_, rfl, by decide +kernel⟩, rfl, rfl, rfl⟩

theorem witness_FlushFrame :
    (∃ t, exec .flush filling = .next t ∧ t.own = true) ∧ (∃ t, exec .flush pushed = .next t ∧ t.eos = true) ∧
      (∃ t, exec .flush { filling with sfail := true } = .next t ∧ t.errc = some .stopped) :=
  ⟨⟨_, rfl, by decide +kernel⟩, ⟨_, rfl, by decide +kernel⟩, ⟨_, rfl, by decide⟩⟩

theorem witness_FlushCornerCases :
    (fresh 4).wrPtr = 0 ∧ (fresh 4).errc = none ∧ pushed.wrPtr = 0 ∧ filling.wrPtr ≠ 0 ∧
      filling.wrPtr.toNat = filling.cfg.bufCap - 1 ∧ pushed.Inv ∧ pushed.cfg.bufCap = 1 :=
  ⟨rfl, rfl, rfl, by decide, by decide, pushed_inv, rfl⟩

theorem witness_ExactlyThreeFaults :
    (∃ t, step (facingWord (fresh 4) 0x60000000) = .next t ∧ t.errc = some .illop) ∧
      (∃ t, step (facingWord (fresh 4) 0x50000001) = .next t ∧ t.errc = some .rsvd) ∧
      (∃ t, step (facingWord { fresh 4 with sfail := true } 0x10000064) = .next t ∧ t.errc = some .stopped) ∧
      (facingWord (fresh 4) 0x60000000).presents 0x60000000 ∧ decode 0x10000064 = .ok (.mod 100) :=
  ⟨⟨_, rfl, by decide⟩, ⟨_, rfl, by decide⟩, ⟨_, rfl, by decide⟩, facingWord_presents _ _, by decide⟩

theorem witness_FaultActionIsPrecise :
    (fresh 4).errc = none ∧ ({ fresh 4 with errc := some .stopped } : State).errc ≠ none ∧
      (facingWord (fresh 4) 0x40000001).presents 0x40000001 ∧ decode 0x40000001 = .illegal .rsvd ∧
      decode 0x50000000 = .ok .flush ∧ ({ fresh 4 with eos := true } : State).eos = true :=
  ⟨rfl, by decide, facingWord_presents _ _, by decide, by decide, rfl⟩

/-- A faulted block with a buffer out, a word and a read to come. -/
theorem witness_FailStop :
    (facing { pushed with errc := some .illop } [0x10004000] [.rd 0] [.command, .sink]).errc ≠ none ∧
      Action.reset ∉ actionsIn 2 (facing { pushed with errc := some .illop } [0x10004000] [.rd 0] [.command, .sink]) ∧
      (facingSink { pushed with errc := some .illop } (.rd 0)).requests (.rd 0) ∧ pushed.own = true ∧
      (0 : Count).toNat < pushed.cfg.bufCap ∧
      (facingSink { pushed with errc := some .illop } (.rel false)).requests (.rel false) :=
  ⟨by decide, by decide +kernel, facingSink_requests _ _, rfl, by decide, facingSink_requests _ _⟩

theorem witness_OrderOfChecks :
    (facingWord { fresh 4 with errc := some .illop } 0x10000000).presents 0x10000000 ∧
      (facingWord { fresh 4 with eos := true } 0x60000001).presents 0x60000001 ∧
      (facingWord { fresh 4 with eos := true } 0x10010000).presents 0x10010000 ∧
      (facingWord { fresh 4 with eos := true } 0x10000000).presents 0x10000000 ∧ decode 0x10000000 = .ok (.mod 0) ∧
      (facingWord pushed 0x10000000).holds (.mod 0) = true ∧
      ((facingWord filling 0x10000000).presents 0x10000000 ∧ (facingWord filling 0x10000000).errc = none ∧
        (facingWord filling 0x10000000).holds (.mod 0) = false ∧ filling.eos = false ∧ filling.sfail = false) :=
  ⟨facingWord_presents _ _, facingWord_presents _ _, facingWord_presents _ _, facingWord_presents _ _, by decide,
    by decide, facingWord_presents _ _, rfl, by decide, rfl, rfl⟩

/-- An orderly run: the last sample of a fill, a release, and the end of the stream; and a failed push. -/
theorem witness_OrderlyRunsDoNotFault :
    let s := facing filling [0x10004000, 0x50000000] [.rel true] [.command, .sink, .command]
    ((∃ t, runSteps 3 s = .next t ∧ t.eos = true) ∧ s.errc = none ∧ s.sfail = false ∧
        actionsIn 3 s = [.command (.mod 16384), .release true, .command .flush] ∧ collect State.hazards 3 s = []) ∧
      ({ fresh 4 with sfail := true } : State).faultOutcome := by
  refine ⟨⟨⟨_, rfl, by decide +kernel⟩, by decide +kernel⟩, Or.inr rfl⟩

/-- A buffer of two slots handed over by `FLUSH` with one sample: slot 0 is a sample, slot 1 padding. -/
theorem witness_ReadAnswersSlot :
    (facingSink pushed (.rd 0)).requests (.rd 0) ∧ pushed.own = true ∧ (0 : Count).toNat < pushed.cfg.bufCap ∧
      pushed.Inv ∧ (0 : Count).toNat < pushed.vcnt.toNat ∧
      (∃ t, exec .flush filling = .next t ∧ t.own = true ∧ t.vcnt.toNat ≤ (1 : Count).toNat ∧
        (1 : Count).toNat < t.cfg.bufCap) :=
  ⟨facingSink_requests _ _, rfl, by decide, pushed_inv, by decide, ⟨_, rfl, by decide +kernel⟩⟩

/-- A read while filling, a read past the end, and a read that the hand-over enables. -/
theorem witness_UnenabledReadWaits :
    ((facingSink filling (.rd 0)).requests (.rd 0) ∧ filling.own = false) ∧
      ((facingSink pushed (.rd 1)).requests (.rd 1) ∧ pushed.cfg.bufCap ≤ (1 : Count).toNat ∧
        ∃ t, runSteps 3 (facingSink pushed (.rd 1)) = .next t) ∧
      (∃ t u, step (facing filling [0x10004000] [.rd 1] [.command, .sink]) = .next t ∧ t.own = true ∧
        t.turns.head? = some .sink ∧ step t = .next u ∧ (1 : Count).toNat < filling.cfg.bufCap) :=
  ⟨⟨facingSink_requests _ _, rfl⟩, ⟨facingSink_requests _ _, by decide, ⟨_, rfl⟩⟩,
    ⟨_, _, rfl, by decide +kernel, rfl, rfl, by decide⟩⟩

theorem witness_ReleaseReturnsBuffer :
    (facingSink pushed (.rel false)).requests (.rel false) ∧ pushed.own = true ∧ pushed.errc = none ∧
      (facingSink filling (.rel true)).requests (.rel true) ∧ filling.own = false ∧
      (holding [.rel true] [.sink]).requests (.rel true) ∧ (holding [.rel true] [.sink]).holds (.mod 16384) = true ∧
      (holding [.rel true] [.sink]).Inv ∧ (∃ t, step (holding [.rel true] [.sink]) = .next t) :=
  ⟨facingSink_requests _ _, rfl, rfl, facingSink_requests _ _, rfl, ⟨rfl, rfl⟩, by decide, inv_facing pushed_inv _ _ _,
    ⟨_, rfl⟩⟩

/-- A push during which the sink reads twice and a `MOD` is held. -/
theorem witness_BufferStableDuringPush :
    (holding [.rd 0, .rd 0] [.sink, .command, .sink]).Inv ∧ (holding [.rd 0, .rd 0] [.sink, .command, .sink]).own = true ∧
      actionsIn 3 (holding [.rd 0, .rd 0] [.sink, .command, .sink]) = [.read 0, .held (.mod 16384), .read 0] ∧
      ∃ t, runSteps 3 (holding [.rd 0, .rd 0] [.sink, .command, .sink]) = .next t :=
  ⟨inv_facing pushed_inv _ _ _, rfl, by decide +kernel, ⟨_, rfl⟩⟩

theorem witness_AgentStepsCommute :
    (facing pushed [0x50000000] [.rel true] []).Inv ∧ ¬ (facing pushed [0x50000000] [.rel true] []).headHeld ∧
      pushed.own = true ∧ (0 : Count).toNat < pushed.cfg.bufCap ∧
      State.handedOver (facing (fresh 2) [0x10004000] [.rel true] [.command, .sink]) = [] :=
  ⟨inv_facing pushed_inv _ _ _, by
    rintro ⟨w, i, hw, hd, hh⟩
    obtain rfl : w = 0x50000000 := by simpa [facing] using hw.symm
    rw [(by decide : decode 0x50000000 = .ok .flush)] at hd
    cases hd
    exact absurd hh (by decide), rfl, by decide, by decide +kernel⟩

theorem witness_ResetSetsEveryElement : (facing pushed [] [] [.reset]).turns.head? = some .reset := rfl

/-- Steps with `EOS`, `SFAIL` or `ERRC` set, with a fill in progress, and with the buffer out. -/
theorem witness_OnlyResetClears :
    (∃ t, step (facingWord { fresh 4 with eos := true, sfail := true } 0x40000000) = .next t) ∧
      (facingWord { fresh 4 with eos := true, sfail := true } 0x40000000).action ≠ .reset ∧
      (∃ t, step (facingWord { fresh 4 with errc := some .rsvd } 0x40000000) = .next t) ∧
      ((facingWord filling 0x50000000).Inv ∧ filling.wrPtr ≠ 0 ∧ ∃ t, step (facingWord filling 0x50000000) = .next t) ∧
      (∃ t, step (facingSink pushed (.rel true)) = .next t) :=
  ⟨⟨_, rfl⟩, by decide, ⟨_, rfl⟩, ⟨inv_facing filling_inv _ _ _, by decide, ⟨_, rfl⟩⟩, ⟨_, rfl⟩⟩

theorem witness_StatusWordsShowState :
    (∃ t, step (facingWord (fresh 4) 0x20001234) = .next t ∧ t.kscale ≠ (fresh 4).kscale) ∧
      (∃ t, step (facingWord (fresh 4) 0x30001234) = .next t ∧ t.kscale ≠ (fresh 4).kscale) ∧
      (∃ t, step (facing { fresh 4 with kscale := 0 } [] [] [.reset]) = .next t ∧ t.kscale ≠ 0) :=
  ⟨⟨_, rfl, by decide⟩, ⟨_, rfl, by decide⟩, ⟨_, rfl, by decide⟩⟩

theorem witness_EventOutputs :
    (∃ t, step (facingWord filling 0x10004000) = .next t ∧ filling.bufRdy = false ∧ t.bufRdy = true) ∧
      (∃ t, step (facingWord filling 0x50000000) = .next t ∧ t.bufRdy = true) ∧
      (∃ t, step (facingSink pushed (.rel false)) = .next t ∧ pushed.bufRdy = true ∧ t.bufRdy = false ∧
        pushed.faultOut = false ∧ t.faultOut = true) ∧
      (∃ t, step (facingWord (fresh 4) 0) = .next t ∧ (fresh 4).faultOut = false ∧ t.faultOut = true) ∧
      (∃ t, step (facing { fresh 4 with sfail := true } [] [] [.reset]) = .next t ∧ t.faultOut = false) ∧
      ((facingWord filling 0x10004000).executed = some (.mod 16384) ∧ filling.wrPtr.toNat + 1 = filling.cfg.bufCap ∧
        (facingWord filling 0x50000000).executed = some .flush ∧ filling.wrPtr ≠ 0 ∧
        (facingSink pushed (.rel false)).action = .release false ∧ pushed.own = true ∧
        (facingWord (fresh 4) 0).action = .illegal .illop 0 ∧
        (facingWord { fresh 4 with eos := true } 0x50000000).action = .command .flush ∧
        (facing pushed [] [] [.reset]).action = .reset) :=
  ⟨⟨_, rfl, by decide +kernel⟩, ⟨_, rfl, by decide +kernel⟩, ⟨_, rfl, by decide +kernel⟩, ⟨_, rfl, by decide +kernel⟩,
    ⟨_, rfl, by decide +kernel⟩, by decide +kernel⟩

theorem witness_InvariantKept :
    (facingWord filling 0x10004000).Inv ∧ ∃ t, step (facingWord filling 0x10004000) = .next t ∧ t.own = true :=
  ⟨inv_facing filling_inv _ _ _, ⟨_, rfl, by decide +kernel⟩⟩

theorem witness_ResetMeetsInvariant : pushed.cfg.wf = true := pushed_inv.config

theorem witness_ConfigurationIsConstant :
    ∃ t, runSteps 2 (facing filling [0x10004000] [] [.command, .reset]) = .next t := ⟨_, rfl⟩

theorem witness_NoImplicitPhaseClear :
    (∃ t, step (facingWord filling 0x10004000) = .next t ∧ t.acc ≠ filling.acc ∧ t.own = true) ∧
      (∃ t, step (facingWord { filling with acc := 1 } 0x40000000) = .next t ∧ t.acc ≠ 1) ∧
      (∃ t, step (facingSink pushed (.rel true)) = .next t ∧ (facingSink pushed (.rel true)).action = .release true) ∧
      (∃ t, step (facingWord filling 0x50000000) = .next t ∧ (facingWord filling 0x50000000).action = .command .flush) :=
  ⟨⟨_, rfl, by decide +kernel⟩, ⟨_, rfl, by decide +kernel⟩, ⟨_, rfl, by decide⟩, ⟨_, rfl, by decide⟩⟩

/-- Two samples around a hand-over, a hold and a release. -/
theorem witness_ExactAccumulation :
    let s := facing (fresh 1) [0x10004000, 0x10008000] [.rel true] [.command, .command, .sink, .command]
    (∃ t, runSteps 4 s = .next t) ∧ Action.reset ∉ actionsIn 4 s ∧ executedIn 4 s = [16384, -32768].map Instr.mod ∧
      Instr.clrph ∉ executedIn 4 s ∧ s.acc = 0 := by
  refine ⟨⟨_, rfl⟩, ?_⟩
  decide +kernel

/-- One sample between a held turn, a release and a reload of the constant. -/
theorem witness_PhaseContinuity :
    let s := facing pushed [0x20000000, 0x10004000] [.rel true] [.command, .command, .sink, .command]
    (∃ t, runSteps 4 s = .next t) ∧ Action.reset ∉ actionsIn 4 s ∧ Instr.clrph ∉ executedIn 4 s ∧
      incrementsIn 4 s = [16384 * 0x50000000] ∧ (80 : Int) = ((16384 * 0x50000000) % 2 ^ 48) / 2 ^ 38 := by
  refine ⟨⟨_, rfl⟩, ?_⟩
  decide +kernel

/-- The same words with and without a failing sink in between. -/
theorem witness_ReplayIsDeterministic :
    let s := facing (fresh 1) [0x10004000, 0x10008000] [.rel true] [.command, .sink, .command]
    let r := facing (fresh 1) [0x10004000, 0x10008000] [.rel false] [.command, .sink, .command]
    s.cfg = r.cfg ∧ s.acc = r.acc ∧ s.kscale = r.kscale ∧ s.wrPtr = r.wrPtr ∧ s.eos = r.eos ∧ s.errc = r.errc ∧
      s.cmd = r.cmd ∧ Action.reset ∉ actionsIn 3 s ∧ Action.reset ∉ actionsIn 3 r ∧
      (samplesIn 3 s).length = 2 ∧ (samplesIn 3 r).length = 1 := by
  refine ⟨rfl, rfl, rfl, rfl, rfl, rfl, rfl, ?_⟩
  decide +kernel

/-- A push released, one sample into a buffer of one slot, and the end of the stream; and a fill that ends partial. -/
theorem witness_SamplesAreConserved :
    let s := facing pushed [0x10004000, 0x50000000] [.rel true] [.sink, .command, .command]
    let r := facing filling [0x50000000] [] [.command]
    (s.Inv ∧ (∃ t, runSteps 3 s = .next t ∧ t.wrPtr = 0) ∧ Action.reset ∉ actionsIn 3 s ∧ s.wrPtr = 0 ∧
        handOversIn 3 s = [1]) ∧
      (r.Inv ∧ (∃ t, runSteps 1 r = .next t) ∧ Action.reset ∉ actionsIn 1 r ∧ handOversIn 1 r = [1]) := by
  refine ⟨⟨inv_facing pushed_inv _ _ _, ⟨_, rfl, by decide +kernel⟩, by decide +kernel⟩,
    inv_facing filling_inv _ _ _, ⟨_, rfl⟩, by decide +kernel⟩

/-- A fill that `FLUSH` hands over with one sample and one padding slot, over old contents; one that is full; and one that is
still in progress. -/
theorem witness_HandedOverBufferHoldsItsFill :
    let s := facing { fresh 2 with buf := oneSlot } [0x10004000, 0x50000000] [.rel true] [.command, .sink, .command]
    let r := facing { fresh 2 with buf := oneSlot } [0x10004000, 0x10008000] [] [.command, .command]
    (s.cfg.capOk = true ∧ s.own = false ∧ s.wrPtr = 0 ∧ Action.reset ∉ actionsIn 3 s ∧
        (∃ t, runSteps 3 s = .next t ∧ t.own = true) ∧ handOversIn 3 s = [1] ∧ (samplesIn 3 s).length = 1) ∧
      (r.wrPtr = 0 ∧ (∃ t, runSteps 2 r = .next t ∧ t.own = true) ∧ handOversIn 2 r = [2] ∧
        (∃ t, runSteps 1 r = .next t) ∧ handOversIn 1 r = [] ∧ (samplesIn 1 r).length = 1) := by
  refine ⟨⟨by decide, rfl, rfl, by decide +kernel, ⟨_, rfl, by decide +kernel⟩, by decide +kernel, by decide +kernel⟩,
    rfl, ⟨_, rfl, by decide +kernel⟩, by decide +kernel, ⟨_, rfl⟩, by decide +kernel, by decide +kernel⟩

/-- A fill with one sample in it, completed, handed over, released and followed by one more sample. -/
theorem witness_HandedOverSamplesInOrder :
    let s := facing filling [0x10004000, 0x10008000] [.rel true] [.command, .sink, .command]
    s.Inv ∧ (∃ t, runSteps 3 s = .next t ∧ t.wrPtr = 1) ∧ Action.reset ∉ actionsIn 3 s ∧
      (samplesHandedOverIn 3 s).length = 2 ∧ (samplesIn 3 s).length = 2 := by
  refine ⟨inv_facing filling_inv _ _ _, ⟨_, rfl, by decide +kernel⟩, by decide +kernel, by decide +kernel,
    by decide +kernel⟩

/-! A configuration whose table is the reference table, for `AMP = 1`. -/

/-- `AMP = 1`: the rounded sine is 0 below a twelfth of a turn and 1 from there to the quarter. -/
def unitConfig : Config where
  amp := 1
  bufCap := 1
  kReset := 0
  quarter := List.replicate 86 0 ++ List.replicate 171 1

theorem unit_wf : unitConfig.wf = true := by decide +kernel

theorem unit_sin (k : Nat) (h : k < 1024) :
    sinRom unitConfig (BitVec.ofNat 10 k) =
      if k ≤ 85 then 0 else if k ≤ 426 then 1 else if k ≤ 597 then 0 else if k ≤ 938 then -1 else 0 := by
  revert k h
  decide +kernel

theorem half_lt_sin {x : ℝ} (h1 : Real.pi / 6 < x) (h2 : x < 5 * Real.pi / 6) : 1 / 2 < Real.sin x := by
  have hp := Real.pi_pos
  have hx : |x - Real.pi / 2| < Real.pi / 3 := abs_lt.mpr ⟨by linarith, by linarith⟩
  have h := Real.cos_lt_cos_of_nonneg_of_le_pi (abs_nonneg _) (by linarith) hx
  rwa [Real.cos_abs, Real.cos_sub_pi_div_two, Real.cos_pi_div_three] at h

theorem sin_small {x : ℝ} (h1 : -(Real.pi / 6) < x) (h2 : x < Real.pi / 6) : |Real.sin x| < 1 / 2 := by
  have hp := Real.pi_pos
  have u := Real.sin_lt_sin_of_lt_of_le_pi_div_two (by linarith) (by linarith) h2
  have l := Real.sin_lt_sin_of_lt_of_le_pi_div_two (by linarith) (by linarith) h1
  rw [Real.sin_neg, Real.sin_pi_div_six] at l
  rw [Real.sin_pi_div_six] at u
  exact abs_lt.mpr ⟨by linarith, u⟩

/-- The angle of index `k` in the reference table. -/
theorem unit_rounds (k : Nat) (h : k < 1024) :
    |Real.sin (2 * Real.pi * k / 1024) - (sinRom unitConfig (BitVec.ofNat 10 k) : ℤ)| < 1 / 2 := by
  have hp := Real.pi_pos
  have bound (a b : ℝ) (ha : a < k) (hb : (k : ℝ) < b) :
      2 * Real.pi * a / 1024 < 2 * Real.pi * k / 1024 ∧ 2 * Real.pi * k / 1024 < 2 * Real.pi * b / 1024 := by
    constructor <;> apply div_lt_div_of_pos_right _ (by norm_num) <;> apply mul_lt_mul_of_pos_left _ (by linarith) <;>
      assumption
  have cast (m n : Nat) (hm : m ≤ k) (hn : k ≤ n) : (m : ℝ) ≤ k ∧ (k : ℝ) ≤ n := ⟨by exact_mod_cast hm, by exact_mod_cast hn⟩
  have le_one := Real.sin_le_one (2 * Real.pi * k / 1024)
  have ge_one := Real.neg_one_le_sin (2 * Real.pi * k / 1024)
  rw [unit_sin k h]
  split
  · obtain ⟨c1, c2⟩ := cast 0 85 (by omega) (by omega)
    obtain ⟨b1, b2⟩ := bound (-85) (85.3) (by push_cast at c1; linarith) (by push_cast at c2; linarith)
    simpa using sin_small (by linarith) (by linarith)
  · split
    · obtain ⟨c1, c2⟩ := cast 86 426 (by omega) (by omega)
      obtain ⟨b1, b2⟩ := bound 85.4 426.6 (by push_cast at c1; linarith) (by push_cast at c2; linarith)
      have := half_lt_sin (x := 2 * Real.pi * k / 1024) (by linarith) (by linarith)
      rw [abs_lt]; push_cast; constructor <;> linarith
    · split
      · obtain ⟨c1, c2⟩ := cast 427 597 (by omega) (by omega)
        obtain ⟨b1, b2⟩ := bound 426.7 597.3 (by push_cast at c1; linarith) (by push_cast at c2; linarith)
        have := sin_small (x := 2 * Real.pi * k / 1024 - Real.pi) (by linarith) (by linarith)
        rw [Real.sin_sub_pi, abs_neg] at this
        simpa using this
      · split
        · obtain ⟨c1, c2⟩ := cast 598 938 (by omega) (by omega)
          obtain ⟨b1, b2⟩ := bound 597.4 938.6 (by push_cast at c1; linarith) (by push_cast at c2; linarith)
          have := half_lt_sin (x := 2 * Real.pi * k / 1024 - Real.pi) (by linarith) (by linarith)
          rw [Real.sin_sub_pi] at this
          rw [abs_lt]; push_cast; constructor <;> linarith
        · obtain ⟨c1, c2⟩ := cast 939 1023 (by omega) (by omega)
          obtain ⟨b1, b2⟩ := bound 938.7 1023.5 (by push_cast at c1; linarith) (by push_cast at c2; linarith)
          have := sin_small (x := 2 * Real.pi * k / 1024 - 2 * Real.pi) (by linarith) (by linarith)
          rw [Real.sin_sub_two_pi] at this
          simpa using this

theorem unit_reference : TableIsReference unitConfig := by
  intro k
  have hk : k.toNat < 1024 := k.isLt
  have hs := unit_rounds k.toNat hk
  have back : BitVec.ofNat 10 k.toNat = k := by simp
  rw [back] at hs
  refine ⟨Or.inl ?_, Or.inl (by simpa [unitConfig] using hs)⟩
  have shift : cosRom unitConfig k = sinRom unitConfig (BitVec.ofNat 10 ((k.toNat + 256) % 1024)) := by
    unfold cosRom; congr 1; apply BitVec.eq_of_toNat_eq; simp [BitVec.toNat_add]
  have hc := unit_rounds ((k.toNat + 256) % 1024) (Nat.mod_lt _ (by norm_num))
  rw [← shift] at hc
  have angle : Real.sin (2 * Real.pi * ((k.toNat + 256) % 1024 : ℕ) / 1024) = Real.cos (2 * Real.pi * k.toNat / 1024) := by
    rw [← Real.sin_add_pi_div_two]
    by_cases hlt : k.toNat + 256 < 1024
    · rw [Nat.mod_eq_of_lt hlt]; congr 1; push_cast; ring
    · have : (k.toNat + 256) % 1024 = k.toNat + 256 - 1024 := by omega
      rw [this, ← Real.sin_add_two_pi]; refine congrArg Real.sin ?_
      rw [Nat.cast_sub (by omega)]; push_cast; ring
  rw [angle] at hc
  simpa [unitConfig] using hc

theorem witness_RefinesRealModulator :
    TableIsReference ({ State.reset with cfg := unitConfig } : State).cfg ∧ unitConfig.wf = true ∧
      IsPhase 0 State.reset.acc ∧ State.reset.errc = none ∧ State.reset.eos = false ∧ State.reset.sfail = false ∧
      State.reset.own = false ∧ State.reset.wrPtr.toNat < unitConfig.bufCap :=
  ⟨unit_reference, unit_wf, ⟨0, by rw [show State.reset.acc = 0 from rfl]; simp⟩, rfl, rfl, rfl, rfl, by decide⟩

theorem witness_HeldModRunsAfterRelease :
    (holding [.rel true] [.sink, .command]).Inv ∧
      (holding [.rel true] [.sink, .command]).cmd.head? = some 0x10004000 ∧ decode 0x10004000 = .ok (.mod 16384) ∧
      (holding [.rel true] [.sink, .command]).holds (.mod 16384) = true ∧
      (holding [.rel true] [.sink, .command]).sink.head? = some (.rel true) :=
  ⟨inv_facing pushed_inv _ _ _, rfl, by decide, by decide, rfl⟩

theorem witness_HeldModWaitsForEver :
    (holding [.rd 0] [.command, .sink, .command]).headHeld ∧
      actionsIn 3 (holding [.rd 0] [.command, .sink, .command]) = [.held (.mod 16384), .read 0, .held (.mod 16384)] ∧
      ((holding [.rd 1] [.sink, .command]).stuck ∧ Action.reset ∉ actionsIn 2 (holding [.rd 1] [.sink, .command])) :=
  ⟨⟨0x10004000, .mod 16384, rfl, by decide, by decide⟩, by decide +kernel,
    ⟨⟨0x10004000, .mod 16384, rfl, by decide, by decide⟩, by decide +kernel⟩, by decide +kernel⟩

/-- 70_reset_and_hazards.md R164: stuck with a sink that requests nothing or a read that is never enabled, and with a reset
still to come; not with a read or a release that is still to be performed. -/
theorem test_stuck :
    (holding [] [.sink]).stuck ∧ (holding [.rd 1, .rel true] [.sink, .sink, .reset]).stuck ∧
      ¬ (holding [.rd 0] [.sink]).stuck ∧ ¬ (holding [.rel true] [.command, .sink]).stuck :=
  ⟨⟨⟨0x10004000, .mod 16384, rfl, by decide, by decide⟩, by decide +kernel⟩,
    ⟨⟨0x10004000, .mod 16384, rfl, by decide, by decide⟩, by decide +kernel⟩,
    fun h => absurd h.2 (by decide +kernel), fun h => absurd h.2 (by decide +kernel)⟩

theorem witness_OutputRange : pushed.cfg.wf = true ∧ isSample pushed.cfg 0x00007FFF :=
  ⟨pushed_inv.config, sample_of_phase_zero 1⟩

theorem witness_SlotByteLayout : pushed.buf.slot 0 = some 0x00007FFF := oneSlot_zero

end Sys2Proof.Tests
end

section
/-! SUPPORT. Laws of slots as wholes: a slot read after a slot write, and after padding. -/

namespace Sys2Proof.Machine

/-- A slot is a function of its own four bytes. -/
theorem Memory.slot_congr {m n : Memory} {k : Nat} (h : ∀ a, 4 * k ≤ a → a < 4 * k + 4 → m.read a = n.read a) :
    m.slot k = n.slot k := by
  unfold Memory.slot
  rw [h _ (by omega) (by omega), h _ (by omega) (by omega), h _ (by omega) (by omega), h _ (by omega) (by omega)]

/-- A slot just written reads as written (20_memory.md R44). -/
@[simp] theorem Memory.slot_writeSlot_same (m : Memory) (k : Nat) (v : Word) : (m.writeSlot k v).slot k = some v := by
  have h0 := Memory.read_writeSlot_inside m k v (n := 0) (by omega)
  have h1 := Memory.read_writeSlot_inside m k v (n := 1) (by omega)
  have h2 := Memory.read_writeSlot_inside m k v (n := 2) (by omega)
  have h3 := Memory.read_writeSlot_inside m k v (n := 3) (by omega)
  rw [Nat.add_zero] at h0
  simp [Memory.slot, h0, h1, h2, h3]

/-- Padding leaves the slots outside its range alone. -/
theorem Memory.slot_zeroSlots_outside (m : Memory) (p n : Nat) {k : Nat} (h : k < p ∨ p + n ≤ k) :
    (m.zeroSlots p n).slot k = m.slot k :=
  Memory.slot_congr fun _ _ _ => Memory.read_zeroSlots_outside m p n (by omega)

/-- Padding makes every slot of its range zero (42_stream_control.md R111). -/
theorem Memory.slot_zeroSlots_inside (m : Memory) {p n k : Nat} (hp : p ≤ k) (hk : k < p + n) :
    (m.zeroSlots p n).slot k = some 0 := by
  induction n generalizing m p with
  | zero => omega
  | succ n ih =>
    rw [Memory.zeroSlots]
    obtain rfl | hlt := Nat.eq_or_lt_of_le hp
    · rw [Memory.slot_zeroSlots_outside _ _ _ (by omega), Memory.slot_writeSlot_same]
    · exact ih _ hlt (by omega)

end Sys2Proof.Machine
end

section
/-! SUPPORT. The two halves of the 32-bit words that are made of halves: a slot and `KSCALE`. -/

namespace Sys2Proof.Machine

/-- The low half of two halves put together. -/
theorem extractLow_append (hi lo : Half) : (hi ++ lo : Word).extractLsb' 0 16 = lo := by
  rw [BitVec.extractLsb'_append_eq_of_add_le (by omega), BitVec.extractLsb'_eq_self]

/-- The high half of two halves put together. -/
theorem extractHigh_append (hi lo : Half) : (hi ++ lo : Word).extractLsb' 16 16 = hi := by
  rw [BitVec.extractLsb'_append_eq_of_le (by omega), Nat.sub_self, BitVec.extractLsb'_eq_self]

@[simp] theorem slotI_packPair (i q : Int) : slotI (packPair i q) = BitVec.ofInt 16 i := extractLow_append _ _

@[simp] theorem slotQ_packPair (i q : Int) : slotQ (packPair i q) = BitVec.ofInt 16 q := extractHigh_append _ _

@[simp] theorem extractLow_withLowHalf (k : Word) (v : Half) : (withLowHalf k v).extractLsb' 0 16 = v :=
  extractLow_append _ _

@[simp] theorem extractHigh_withLowHalf (k : Word) (v : Half) :
    (withLowHalf k v).extractLsb' 16 16 = k.extractLsb' 16 16 := extractHigh_append _ _

@[simp] theorem extractLow_withHighHalf (k : Word) (v : Half) :
    (withHighHalf k v).extractLsb' 0 16 = k.extractLsb' 0 16 := extractLow_append _ _

@[simp] theorem extractHigh_withHighHalf (k : Word) (v : Half) : (withHighHalf k v).extractLsb' 16 16 = v :=
  extractHigh_append _ _

end Sys2Proof.Machine
end

section
/-! SUPPORT. The range of the table under a legal configuration (20_memory.md R48 P2, P7). -/

namespace Sys2Proof

/-- The list check of P7 is Mathlib's chain of `≤`. -/
theorem risingList_iff (l : List Nat) : risingList l = true ↔ l.IsChain (· ≤ ·) := by
  induction l with
  | nil => simp [risingList]
  | cons a l ih =>
    cases l with
    | nil => simp [risingList]
    | cons b l => simp only [risingList, Bool.and_eq_true, decide_eq_true_eq, ih, List.isChain_cons_cons]

/-- The checks a legal configuration passes. -/
theorem Config.wf_iff (c : Config) :
    c.wf = true ↔ c.ampOk = true ∧ c.capOk = true ∧ c.axesOk = true ∧ c.monotoneOk = true ∧ c.normOk = true := by
  simp only [Config.wf, Bool.and_eq_true, and_assoc]

/-- `AMP` fits in 15 bits (00_scope.md R7). -/
theorem Config.amp_le_of_wf {c : Config} (hc : c.wf = true) : c.amp ≤ 32767 := by
  obtain ⟨hamp, -⟩ := c.wf_iff.mp hc
  simp only [Config.ampOk, Bool.and_eq_true, decide_eq_true_eq] at hamp
  exact hamp.2

namespace Machine

/-- A quarter-table entry is not negative. -/
theorem quarterEntry_nonneg (c : Config) (j : Nat) : 0 ≤ quarterEntry c j := Int.natCast_nonneg _

/-- A quarter-table entry is at most the last one, which is `AMP`: the table never falls. -/
theorem quarterEntry_le_amp {c : Config} (hc : c.wf = true) {j : Nat} (hj : j ≤ 256) : quarterEntry c j ≤ c.amp := by
  obtain ⟨-, -, haxes, hmono, -⟩ := c.wf_iff.mp hc
  simp only [Config.axesOk, Bool.and_eq_true, decide_eq_true_eq] at haxes
  obtain ⟨⟨hlen, -⟩, hlast⟩ := haxes
  obtain ⟨hend, hlast⟩ := List.getElem?_eq_some_iff.mp hlast
  have hsorted : c.quarter.Pairwise (· ≤ ·) := List.isChain_iff_pairwise.mp ((risingList_iff _).mp hmono)
  have hj' : j < c.quarter.length := by omega
  have hle : c.quarter[j] ≤ c.quarter[256] := hsorted.rel_get_of_le (a := ⟨j, hj'⟩) (b := ⟨256, hend⟩) hj
  rw [quarterEntry, List.getD_eq_getElem _ _ hj']
  omega

/-- Every sine of the table is in [−AMP, AMP], quadrant by quadrant. -/
theorem sinRom_bounds {c : Config} (hc : c.wf = true) (k : Index) : -(c.amp : Int) ≤ sinRom c k ∧ sinRom c k ≤ c.amp := by
  have rising := quarterEntry_le_amp hc (j := k.toNat % 256) (by omega)
  have falling := quarterEntry_le_amp hc (j := 256 - k.toNat % 256) (by omega)
  have rising_nonneg := quarterEntry_nonneg c (k.toNat % 256)
  have falling_nonneg := quarterEntry_nonneg c (256 - k.toNat % 256)
  simp only [sinRom]
  split <;> constructor <;> omega

/-- Every cosine of the table is in [−AMP, AMP]. -/
theorem cosRom_bounds {c : Config} (hc : c.wf = true) (k : Index) : -(c.amp : Int) ≤ cosRom c k ∧ cosRom c k ≤ c.amp :=
  sinRom_bounds hc _

/-- No number above −32768 that 16 bits hold has the pattern `0x8000` (10_state.md R25). -/
theorem ofInt_ne_extreme {n : Int} (hlo : -32767 ≤ n) (hhi : n ≤ 32767) : BitVec.ofInt 16 n ≠ (0x8000 : Half) := by
  intro h
  have hn : (BitVec.ofInt 16 n).toInt = n := BitVec.toInt_ofInt_eq_self (by omega) (by omega) (by omega)
  have hx : (0x8000 : Half).toInt = -32768 := by decide
  rw [h, hx] at hn
  omega

/-- The pair of a table entry has no half `0x8000`. -/
theorem samplePair_halvesLegal {c : Config} (hc : c.wf = true) (k : Index) : halvesLegal (samplePair c k) := by
  have hamp := Config.amp_le_of_wf hc
  obtain ⟨hci, hci'⟩ := cosRom_bounds hc k
  obtain ⟨hsi, hsi'⟩ := sinRom_bounds hc k
  unfold halvesLegal samplePair
  rw [slotI_packPair, slotQ_packPair]
  exact ⟨ofInt_ne_extreme (by omega) (by omega), ofInt_ne_extreme (by omega) (by omega)⟩

end Machine
end Sys2Proof
end

section
/-! SUPPORT. What the commands that fill the buffer do when nothing stops them, and what a command does to `KSCALE`. -/

namespace Sys2Proof.Machine

theorem State.faulted_eq_false_iff (s : State) : s.faulted = false ↔ s.errc = none := by
  simp [State.faulted]

theorem State.ended_eq_false_iff (s : State) : s.ended = false ↔ s.eos = false ∧ s.sfail = false := by
  simp [State.ended]

@[simp] theorem State.modulate_buf (s : State) (dev : Int) :
    (s.modulate dev).buf =
      s.buf.writeSlot s.wrPtr.toNat (samplePair s.cfg (tableIndex (nextPhase s.acc dev s.kscale))) := rfl

/-- The slot at the old pointer holds the pair of the new phase (40_modulate.md R84). -/
theorem State.modulate_slot (s : State) (dev : Int) :
    (s.modulate dev).buf.slot s.wrPtr.toNat =
      some (samplePair s.cfg (tableIndex (nextPhase s.acc dev s.kscale))) := by
  rw [State.modulate_buf, Memory.slot_writeSlot_same]

@[simp] theorem State.modulate_kscale (s : State) (dev : Int) : (s.modulate dev).kscale = s.kscale := rfl

/-- A `MOD` that is neither discarded, stopped nor held, with the pointer at a slot, modulates (40_modulate.md R81). -/
theorem exec_mod_running {s : State} (dev : Int) (herr : s.errc = none) (heos : s.eos = false) (hsfail : s.sfail = false)
    (hown : s.own = false) (hptr : s.wrPtr.toNat < s.cfg.bufCap) : exec (.mod dev) s = .next (s.modulate dev) := by
  have hf := s.faulted_eq_false_iff.mpr herr
  have he := s.ended_eq_false_iff.mpr ⟨heos, hsfail⟩
  simp [exec, execMod, hf, he, hown, hptr]

/-- A `FLUSH` that is neither discarded nor stopped ends the stream (42_stream_control.md R111). -/
theorem exec_flush_running {s : State} (herr : s.errc = none) (heos : s.eos = false) (hsfail : s.sfail = false) :
    exec .flush s = .next s.endStream := by
  have hf := s.faulted_eq_false_iff.mpr herr
  have he := s.ended_eq_false_iff.mpr ⟨heos, hsfail⟩
  simp [exec, execFlush_eq, hf, he]

/-- After the end of a stream with a fill in progress, every slot from `WR_PTR` up is zero (42_stream_control.md R111). -/
theorem State.endStream_slot_padding {s : State} {k : Nat} (hw : s.wrPtr ≠ 0) (hp : s.wrPtr.toNat ≤ k)
    (hk : k < s.cfg.bufCap) : s.endStream.buf.slot k = some 0 := by
  have hw' : s.wrPtr.toNat ≠ 0 := fun h => hw (BitVec.eq_of_toNat_eq h)
  rw [State.endStream_buf, if_pos (decide_eq_true hw')]
  exact Memory.slot_zeroSlots_inside _ hp (by omega)

/-- A command leaves `KSCALE` alone, or is `LDKL` or `LDKH` and writes one half of it. -/
theorem exec_kscale_cases {i : Instr} {s t : State} (h : exec i s = .next t) :
    t.kscale = s.kscale ∨ (∃ v, i = .ldkl v ∧ t.kscale = withLowHalf s.kscale v) ∨
      (∃ v, i = .ldkh v ∧ t.kscale = withHighHalf s.kscale v) := by
  cases i with
  | mod dev =>
    left
    obtain ⟨-, rfl⟩ | ⟨-, -, rfl⟩ | ⟨-, -, -, rfl⟩ | ⟨-, -, -, -, rfl⟩ := execMod_cases h <;> simp
  | ldkl v =>
    rw [exec, execLdkl_eq] at h
    cases h
    split <;> simp
  | ldkh v =>
    rw [exec, execLdkh_eq] at h
    cases h
    split <;> simp
  | clrph =>
    rw [exec, execClrph_eq] at h
    cases h
    split <;> simp
  | flush =>
    rw [exec, execFlush_eq] at h
    cases h
    split
    · simp
    · split <;> simp

/-- A step leaves `KSCALE` alone unless it is the reset event or an accepted `LDKL` or `LDKH` (10_state.md R23). -/
theorem step_kscale_cases {s t : State} (h : step s = .next t) :
    t.kscale = s.kscale ∨ s.action = .reset ∨
      (∃ v, s.action = .command (.ldkl v) ∧ t.kscale = withLowHalf s.kscale v) ∨
      (∃ v, s.action = .command (.ldkh v) ∧ t.kscale = withHighHalf s.kscale v) := by
  obtain ⟨-, rfl⟩ | ⟨-, rfl⟩ | ⟨_, _, -, rfl⟩ | ⟨i, hi, hexec⟩ | ⟨_, -, rfl⟩ | ⟨_, -, rfl⟩ | ⟨hreset, -⟩ := step_cases h
  · exact .inl s.passTurn_kscale
  · exact .inl s.acceptWord_kscale
  · exact .inl (State.raise_kscale _ _ _)
  · obtain hsame | ⟨v, rfl, hlow⟩ | ⟨v, rfl, hhigh⟩ := exec_kscale_cases hexec
    · exact .inl hsame
    · exact .inr (.inr (.inl ⟨v, hi, hlow⟩))
    · exact .inr (.inr (.inr ⟨v, hi, hhigh⟩))
  · exact .inl (State.reply_kscale _ _)
  · exact .inl (State.release_kscale _ _)
  · exact .inr (.inl hreset)

end Sys2Proof.Machine
end

section
/-! SUPPORT. The fields of the status words (10_state.md R33). -/

namespace Sys2Proof.Machine

theorem State.statusWord_own (s : State) : s.statusWord.getLsbD 0 = s.own := by
  rw [State.statusWord, BitVec.getLsbD_append]
  simp

theorem State.statusWord_eos (s : State) : s.statusWord.getLsbD 1 = s.eos := by
  rw [State.statusWord, BitVec.getLsbD_append, BitVec.getLsbD_append]
  simp

theorem State.statusWord_sfail (s : State) : s.statusWord.getLsbD 2 = s.sfail := by
  rw [State.statusWord, BitVec.getLsbD_append, BitVec.getLsbD_append, BitVec.getLsbD_append]
  simp

/-- The bits of `STATUS` above the three flags are those of `WR_PTR`, two zeros and `ERRC`. -/
theorem State.statusWord_aboveFlags (s : State) {n len : Nat} :
    s.statusWord.extractLsb' (n + 3) len = ((s.wrPtr ++ (0 : BitVec 2)) ++ errcBits s.errc).extractLsb' n len := by
  rw [State.statusWord, BitVec.extractLsb'_append_eq_of_le (by omega), BitVec.extractLsb'_append_eq_of_le (by omega),
    BitVec.extractLsb'_append_eq_of_le (by omega)]
  rfl

theorem State.statusWord_errc (s : State) : s.statusWord.extractLsb' 3 3 = errcBits s.errc := by
  rw [s.statusWord_aboveFlags (n := 0), BitVec.extractLsb'_append_eq_of_add_le (by omega), BitVec.extractLsb'_eq_self]

theorem State.statusWord_reserved (s : State) : s.statusWord.extractLsb' 6 2 = (0 : BitVec 2) := by
  rw [s.statusWord_aboveFlags (n := 3), BitVec.extractLsb'_append_eq_of_le (by omega),
    BitVec.extractLsb'_append_eq_of_add_le (by omega), BitVec.extractLsb'_eq_self]

theorem State.statusWord_wrPtr (s : State) : s.statusWord.extractLsb' 8 24 = s.wrPtr := by
  rw [s.statusWord_aboveFlags (n := 5), BitVec.extractLsb'_append_eq_of_le (by omega),
    BitVec.extractLsb'_append_eq_of_le (by omega), BitVec.extractLsb'_eq_self]

theorem State.vcntWord_vcnt (s : State) : s.vcntWord.extractLsb' 0 24 = s.vcnt := by
  rw [State.vcntWord, BitVec.extractLsb'_append_eq_of_add_le (by omega), BitVec.extractLsb'_eq_self]

theorem State.vcntWord_reserved (s : State) : s.vcntWord.extractLsb' 24 8 = (0 : Byte) := by
  rw [State.vcntWord, BitVec.extractLsb'_append_eq_of_le (by omega), Nat.sub_self, BitVec.extractLsb'_eq_self]

end Sys2Proof.Machine
end

section
/-! CERTIFICATES. What the commands write to a slot, and what the status words and `KSCALE` show (10_state.md). -/

namespace Sys2Proof.Machine

/-- Settles O16: `MOD` writes the pair of a table entry, whose halves the table bounds; `FLUSH` pads with zero. -/
theorem slotPacking : Obligations.SlotPacking := by
  refine ⟨fun s dev hcfg herr heos hsfail hown hptr => ?_, fun s herr heos hsfail hw => ?_⟩
  · have hslot := s.modulate_slot dev
    generalize tableIndex (nextPhase s.acc dev s.kscale) = k at hslot
    obtain ⟨hi, hi'⟩ := cosRom_bounds hcfg k
    obtain ⟨hq, hq'⟩ := sinRom_bounds hcfg k
    obtain ⟨hlow, hhigh⟩ := samplePair_halvesLegal hcfg k
    exact ⟨s.modulate dev, samplePair s.cfg k, cosRom s.cfg k, sinRom s.cfg k,
      exec_mod_running dev herr heos hsfail hown hptr, hslot, rfl, hi, hi', hq, hq', hlow, hhigh⟩
  · exact ⟨s.endStream, exec_flush_running herr heos hsfail, fun _ hp hk => State.endStream_slot_padding hw hp hk⟩

/-- Settles O37: the fields of the words one by one, and every way a step can change `KSCALE`. -/
theorem statusWordsShowState : Obligations.StatusWordsShowState := by
  refine ⟨fun s => ⟨s.statusWord_own, s.statusWord_eos, s.statusWord_sfail, s.statusWord_errc, s.statusWord_reserved,
    s.statusWord_wrPtr, s.vcntWord_vcnt, s.vcntWord_reserved, rfl⟩,
    by decide, fun s a m => ⟨rfl, rfl, rfl⟩, fun s t h hne => ?_⟩
  obtain hsame | hreset | ⟨v, ha, hk⟩ | ⟨v, ha, hk⟩ := step_kscale_cases h
  · exact absurd hsame hne
  · exact .inl hreset
  · exact .inr (.inl ⟨v, ha, by simp [hk], by simp [hk]⟩)
  · exact .inr (.inr ⟨v, ha, by simp [hk], by simp [hk]⟩)

end Sys2Proof.Machine
end

section
/-! SUPPORT. The byte layout of a slot (20_memory.md R42): its four bytes taken apart again, and the other slots. -/

namespace Sys2Proof.Machine

/-- Byte 0 of four bytes put together: the low byte of I. -/
@[simp] theorem slotByte_zero_slotOfBytes (b0 b1 b2 b3 : Byte) : slotByte (slotOfBytes b0 b1 b2 b3) 0 = b0 := by
  rw [slotByte, slotOfBytes, BitVec.extractLsb'_append_eq_of_add_le (by omega), BitVec.extractLsb'_eq_self]

/-- The bytes above the lowest are those of the three upper ones put together. -/
theorem slotByte_succ_slotOfBytes (b0 b1 b2 b3 : Byte) (n : Nat) :
    slotByte (slotOfBytes b0 b1 b2 b3) (n + 1) = ((b3 ++ b2) ++ b1).extractLsb' (8 * n) 8 := by
  rw [slotByte, slotOfBytes, BitVec.extractLsb'_append_eq_of_le (by omega), Nat.mul_succ, Nat.add_sub_cancel]

/-- Byte 1 of four bytes put together: the high byte of I. -/
@[simp] theorem slotByte_one_slotOfBytes (b0 b1 b2 b3 : Byte) : slotByte (slotOfBytes b0 b1 b2 b3) 1 = b1 := by
  rw [slotByte_succ_slotOfBytes, BitVec.extractLsb'_append_eq_of_add_le (by omega), BitVec.extractLsb'_eq_self]

/-- Byte 2 of four bytes put together: the low byte of Q. -/
@[simp] theorem slotByte_two_slotOfBytes (b0 b1 b2 b3 : Byte) : slotByte (slotOfBytes b0 b1 b2 b3) 2 = b2 := by
  rw [slotByte_succ_slotOfBytes, BitVec.extractLsb'_append_eq_of_le (by omega),
    BitVec.extractLsb'_append_eq_of_add_le (by omega), BitVec.extractLsb'_eq_self]

/-- Byte 3 of four bytes put together: the high byte of Q. -/
@[simp] theorem slotByte_three_slotOfBytes (b0 b1 b2 b3 : Byte) : slotByte (slotOfBytes b0 b1 b2 b3) 3 = b3 := by
  rw [slotByte_succ_slotOfBytes, BitVec.extractLsb'_append_eq_of_le (by omega),
    BitVec.extractLsb'_append_eq_of_le (by omega), BitVec.extractLsb'_eq_self]

/-- Writing a slot leaves every other slot alone: slots do not share bytes (20_memory.md R42). -/
theorem Memory.slot_writeSlot_other (m : Memory) {k j : Nat} (v : Word) (h : j ≠ k) :
    (m.writeSlot k v).slot j = m.slot j :=
  Memory.slot_congr fun _ _ _ => Memory.read_writeSlot_outside m k v (by omega)

end Sys2Proof.Machine
end

section
/-! CERTIFICATES. The byte layout of the buffer (20_memory.md). -/

namespace Sys2Proof.Machine

/-- Settles O53: a written slot holds its own four bytes and no other slot's, and a slot's bytes come back out of its
value. -/
theorem slotByteLayout : Obligations.SlotByteLayout := by
  refine ⟨fun m k v => ?_, fun s k => ?_⟩
  · have written {n : Nat} (hn : n < 4) := m.read_writeSlot_inside k v hn
    exact ⟨written (n := 0) (by omega), written (n := 1) (by omega), written (n := 2) (by omega),
      written (n := 3) (by omega), m.slot_writeSlot_same k v, fun _ hj => m.slot_writeSlot_other v hj⟩
  · exact ⟨slotByte_zero_slotOfBytes _ _ _ _, slotByte_one_slotOfBytes _ _ _ _, slotByte_two_slotOfBytes _ _ _ _,
      slotByte_three_slotOfBytes _ _ _ _, s.slotValue_of_slot k⟩

end Sys2Proof.Machine
end

section
/-! SUPPORT. The decoder: the fields of a word, the five values of `op`, the rows of the opcode map as printed, and
which words the decoder takes (30_encoding.md R61, R62, R64). -/

namespace Sys2Proof

/-! ### Fields -/

/-- A word is its three fields put together (30_encoding.md R61). -/
theorem word_eq_fields (w : Word) : w = (opField w ++ rsvField w) ++ immField w := by
  rw [opField, rsvField, immField,
    BitVec.extractLsb'_append_extractLsb'_eq_extractLsb' (show 28 = 16 + 12 from rfl),
    BitVec.extractLsb'_append_extractLsb'_eq_extractLsb' (show 16 = 0 + 16 from rfl)]
  exact BitVec.extractLsb'_eq_self.symm

/-- Two words put together from fields are equal when their fields are. -/
theorem fields_append_inj {op op' : BitVec 4} {rsv rsv' : BitVec 12} {imm imm' : Half} :
    (op ++ rsv) ++ imm = (op' ++ rsv') ++ imm' ↔ op = op' ∧ rsv = rsv' ∧ imm = imm' := by
  constructor
  · intro h
    obtain ⟨hop, hrsv, himm⟩ := Laws.fields_of_parts op rsv imm
    obtain ⟨hop', hrsv', himm'⟩ := Laws.fields_of_parts op' rsv' imm'
    rw [h] at hop hrsv himm
    exact ⟨hop.symm.trans hop', hrsv.symm.trans hrsv', himm.symm.trans himm'⟩
  · rintro ⟨rfl, rfl, rfl⟩
    rfl

/-! ### The values of `op` -/

/-- Reading `op` inverts writing it. -/
@[simp] theorem opcodeOf_opcodeBits (k : Opcode) : opcodeOf (opcodeBits k) = some k := by
  cases k <;> rfl

/-- Two commands have two values of `op`. -/
theorem opcodeBits_injective : Function.Injective opcodeBits := fun k l h => by
  simpa using congrArg opcodeOf h

/-- The values 1 to 5 of `op` are those of a command. -/
theorem exists_opcodeBits {op : BitVec 4} (hlo : 1 ≤ op.toNat) (hhi : op.toNat ≤ 5) : ∃ k, op = opcodeBits k := by
  have values : op = 1 ∨ op = 2 ∨ op = 3 ∨ op = 4 ∨ op = 5 := by bv_omega
  obtain h | h | h | h | h := values
  exacts [⟨.mod, h⟩, ⟨.ldkl, h⟩, ⟨.ldkh, h⟩, ⟨.clrph, h⟩, ⟨.flush, h⟩]

/-- The values 0 and 6 to 15 of `op` name no command (30_encoding.md R64 a). -/
theorem opcodeOf_eq_none {op : BitVec 4} (h : op = 0 ∨ 6 ≤ op.toNat) : opcodeOf op = none := by
  revert op
  decide

/-- The commands that take no immediate are those with the values 4 and 5 of `op` (30_encoding.md R61). -/
theorem immMustBeZero_iff (k : Opcode) : immMustBeZero k = true ↔ 4 ≤ (opcodeBits k).toNat := by
  cases k <;> decide

@[simp] theorem opcodeOfInstr_withImm (k : Opcode) (imm : Half) : opcodeOfInstr (withImm k imm) = k := by
  cases k <;> rfl

/-- The immediate a command carries is the one it was made with, where it takes one; a command that takes none carries
zero. -/
theorem immOfInstr_withImm {k : Opcode} {imm : Half} (h : immMustBeZero k = true → imm = 0) :
    immOfInstr (withImm k imm) = imm := by
  cases k with
  | mod => exact BitVec.ofInt_toInt
  | ldkl => rfl
  | ldkh => rfl
  | clrph => exact (h rfl).symm
  | flush => exact (h rfl).symm

/-! ### The decoder by cases -/

/-- A word whose `op` names no command. -/
theorem decode_of_no_opcode {w : Word} (h : opcodeOf (opField w) = none) : decode w = .illegal .illop := by
  rw [decode, h]

/-- A word whose `op` names a command: the reserved field first, then the immediate (30_encoding.md R64 b, c). -/
theorem decode_of_opcode {w : Word} {k : Opcode} (h : opField w = opcodeBits k) :
    decode w =
      if rsvField w ≠ 0 then .illegal .rsvd
      else if immMustBeZero k = true ∧ immField w ≠ 0 then .illegal .rsvd
      else .ok (withImm k (immField w)) := by
  rw [decode, h, opcodeOf_opcodeBits]

/-! ### The rows of the opcode map -/

/-- The match and the mask of a command's row, as 30_encoding.md R62 prints them. -/
def opcodeRow : Opcode → Word × Word
  | .mod => (0x10000000, 0xFFFF0000)
  | .ldkl => (0x20000000, 0xFFFF0000)
  | .ldkh => (0x30000000, 0xFFFF0000)
  | .clrph => (0x40000000, 0xFFFFFFFF)
  | .flush => (0x50000000, 0xFFFFFFFF)

/-- The commands in the order of their rows. -/
def opcodes : List Opcode := [.mod, .ldkl, .ldkh, .clrph, .flush]

/-- The row's match and mask select the word (30_encoding.md R62). -/
abbrev MatchesRow (w : Word) (k : Opcode) : Prop := w &&& (opcodeRow k).2 = (opcodeRow k).1

theorem mem_opcodes (k : Opcode) : k ∈ opcodes := by
  cases k <;> decide

theorem opcodeRow_match (k : Opcode) : (opcodeRow k).1 = (opcodeBits k ++ (0 : BitVec 12)) ++ (0 : Half) := by
  cases k <;> rfl

/-- A mask keeps `op` and `rsv`, and the immediate only of a command that takes none. -/
theorem opcodeRow_mask (k : Opcode) :
    (opcodeRow k).2 =
      (BitVec.allOnes 4 ++ BitVec.allOnes 12) ++ (if immMustBeZero k = true then BitVec.allOnes 16 else 0) := by
  cases k <;> rfl

/-- The words of a row, by their fields. -/
theorem matchesRow_iff (w : Word) (k : Opcode) :
    MatchesRow w k ↔ opField w = opcodeBits k ∧ rsvField w = 0 ∧ (immMustBeZero k = true → immField w = 0) := by
  have masked : w &&& (opcodeRow k).2 =
      (opField w ++ rsvField w) ++ (if immMustBeZero k = true then immField w else 0) := by
    conv_lhs => rw [word_eq_fields w]
    rw [opcodeRow_mask, BitVec.and_append, BitVec.and_append, BitVec.and_allOnes, BitVec.and_allOnes]
    split
    · rw [BitVec.and_allOnes]
    · exact congrArg _ BitVec.and_zero
  rw [MatchesRow, masked, opcodeRow_match, fields_append_inj, ite_eq_right_iff]

/-- No word matches two rows. -/
theorem MatchesRow.unique {w : Word} {k l : Opcode} (hk : MatchesRow w k) (hl : MatchesRow w l) : k = l := by
  obtain ⟨hk, -⟩ := (matchesRow_iff w k).mp hk
  obtain ⟨hl, -⟩ := (matchesRow_iff w l).mp hl
  exact opcodeBits_injective (hk.symm.trans hl)

/-- A word of a row is the row's command with the word's immediate. -/
theorem MatchesRow.decode_eq {w : Word} {k : Opcode} (h : MatchesRow w k) :
    decode w = .ok (withImm k (immField w)) := by
  obtain ⟨hop, hrsv, himm⟩ := (matchesRow_iff w k).mp h
  rw [decode_of_opcode hop, if_neg (not_not_intro hrsv), if_neg fun ⟨hk, hne⟩ => hne (himm hk)]

/-- A word that is a command matches the command's row, and carries the command's immediate. -/
theorem matchesRow_of_decode {w : Word} {i : Instr} (h : decode w = .ok i) :
    MatchesRow w (opcodeOfInstr i) ∧ i = withImm (opcodeOfInstr i) (immField w) := by
  by_cases hnone : opField w = 0 ∨ 6 ≤ (opField w).toNat
  · rw [decode_of_no_opcode (opcodeOf_eq_none hnone)] at h
    cases h
  · obtain ⟨k, hop⟩ := exists_opcodeBits (op := opField w) (by bv_omega) (by bv_omega)
    rw [decode_of_opcode hop] at h
    split at h
    · cases h
    · next hrsv =>
      split at h
      · cases h
      · next himm =>
        cases h
        rw [opcodeOfInstr_withImm]
        exact ⟨(matchesRow_iff w k).mpr ⟨hop, not_not.mp hrsv, fun hk => not_not.mp fun hne => himm ⟨hk, hne⟩⟩, rfl⟩

/-- Each row selects exactly its command's words (30_encoding.md R62). -/
theorem matchesRow_iff_decode (w : Word) (k : Opcode) :
    MatchesRow w k ↔ decode w = .ok (withImm k (immField w)) := by
  refine ⟨MatchesRow.decode_eq, fun h => ?_⟩
  obtain ⟨hrow, -⟩ := matchesRow_of_decode h
  rwa [opcodeOfInstr_withImm] at hrow

/-- A word that matches no row is no command. -/
theorem decode_of_no_row {w : Word} (h : ∀ k, ¬ MatchesRow w k) : ∃ c, decode w = .illegal c := by
  cases hd : decode w with
  | ok i => exact absurd (matchesRow_of_decode hd).1 (h _)
  | illegal c => exact ⟨c, rfl⟩

/-- A word that matches a row matches one row only. -/
theorem filter_matchesRow {w : Word} {k : Opcode} (h : MatchesRow w k) :
    opcodes.filter (fun l => decide (MatchesRow w l)) = [k] := by
  have only (l : Opcode) : decide (MatchesRow w l) = decide (l = k) :=
    decide_eq_decide.mpr ⟨fun hl => hl.unique h, fun hl => hl ▸ h⟩
  simp only [only]
  cases k <;> rfl

/-- The word of a command is the only one that decodes to it (30_encoding.md R65). -/
theorem encode_of_decode {w : Word} {i : Instr} (h : decode w = .ok i) : encode i = w := by
  obtain ⟨hrow, hi⟩ := matchesRow_of_decode h
  obtain ⟨hop, hrsv, himm⟩ := (matchesRow_iff w _).mp hrow
  have himmOf : immOfInstr i = immField w := by
    rw [hi]
    exact immOfInstr_withImm himm
  rw [encode, himmOf, ← hop, ← hrsv, ← word_eq_fields]

end Sys2Proof
end

section
/-! SUPPORT. The acceptance of a presented word (30_encoding.md R66): the four things it can come to, the hold
condition, what commands do to the command port, and what can end a hold. -/

namespace Sys2Proof.Machine

/-! ### A presented word -/

/-- The turn with a word presented. -/
theorem State.presents.action_eq {s : State} {w : Word} (h : s.presents w) : s.action = s.commandAction w := by
  obtain ⟨hturn, hcmd⟩ := h
  obtain ⟨ts, hts⟩ := List.head?_eq_some_iff.mp hturn
  obtain ⟨ws, hws⟩ := List.head?_eq_some_iff.mp hcmd
  exact State.action_of_presented hts hws

/-- A faulted block discards the word (60_exceptions.md R134). -/
theorem step_discards {s : State} {w : Word} (h : s.presents w) (herr : s.errc ≠ none) :
    step s = .next s.acceptWord := by
  have hf : s.faulted = true := Option.isSome_iff_ne_none.mpr herr
  simp [step, h.action_eq, State.commandAction, hf]

/-- A word that is no command faults with its code (30_encoding.md R65). -/
theorem step_illegal {s : State} {w : Word} {c : FaultCode} (h : s.presents w) (herr : s.errc = none)
    (hd : decode w = .illegal c) : step s = .next (s.acceptWord.raise c w) := by
  have hf := s.faulted_eq_false_iff.mpr herr
  simp [step, h.action_eq, State.commandAction, hf, hd]

/-- A held command stays where it is. -/
theorem step_held {s : State} {w : Word} {i : Instr} (h : s.presents w) (herr : s.errc = none)
    (hd : decode w = .ok i) (hh : s.holds i = true) : step s = .next s.passTurn := by
  have hf := s.faulted_eq_false_iff.mpr herr
  simp [step, h.action_eq, State.commandAction, hf, hd, hh]

/-- A command that is not held is executed in the state that has accepted its word. -/
theorem step_command {s : State} {w : Word} {i : Instr} (h : s.presents w) (herr : s.errc = none)
    (hd : decode w = .ok i) (hh : s.holds i = false) : step s = exec i s.acceptWord := by
  have hf := s.faulted_eq_false_iff.mpr herr
  simp [step, h.action_eq, State.commandAction, hf, hd, hh]

/-- The first fault after reset is recorded with its word (60_exceptions.md R133). -/
theorem State.raise_first {s : State} (c : FaultCode) (w : Word) (herr : s.errc = none) :
    s.raise c w = { s with errc := some c, errw := w } := by
  simp [State.raise, herr]

/-! ### The hold condition and the stopped commands -/

theorem isMod_iff (i : Instr) : isMod i = true ↔ ∃ dev, i = .mod dev := by
  cases i <;> simp [isMod]

theorem stoppable_iff (i : Instr) : stoppable i = true ↔ (∃ dev, i = .mod dev) ∨ i = .flush := by
  cases i <;> simp [stoppable]

theorem State.ended_eq_true_iff (s : State) : s.ended = true ↔ s.eos = true ∨ s.sfail = true := by
  simp [State.ended]

/-- `HOLD(w)` for a word that decodes to `i` (30_encoding.md R66). -/
theorem State.holds_iff (s : State) (i : Instr) :
    s.holds i = true ↔ s.errc = none ∧ (∃ dev, i = .mod dev) ∧ s.eos = false ∧ s.sfail = false ∧ s.own = true := by
  simp only [State.holds, Bool.and_eq_true, Bool.not_eq_true', State.faulted_eq_false_iff, isMod_iff, and_assoc]

/-- Nothing is held while the sink owns no buffer. -/
theorem State.holds_of_not_own {s : State} (i : Instr) (h : s.own = false) : s.holds i = false := by
  simp [State.holds, h]

/-- Nothing is held after the end of the stream or a failed push. -/
theorem State.holds_of_ended {s : State} (i : Instr) (h : s.ended = true) : s.holds i = false := by
  obtain h | h := s.ended_eq_true_iff.mp h <;> simp [State.holds, h]

/-- `MOD` and `FLUSH` fault after the end (60_exceptions.md R132). -/
theorem exec_stopped {s : State} {i : Instr} (herr : s.errc = none) (hi : stoppable i = true) (he : s.ended = true) :
    exec i s = .next (s.raise .stopped (encode i)) := by
  have hf := s.faulted_eq_false_iff.mpr herr
  obtain ⟨dev, rfl⟩ | rfl := (stoppable_iff i).mp hi
  · simp [exec, execMod, hf, he]
  · simp [exec, execFlush_eq, hf, he]

/-! ### What a command can lead to -/

/-- The states a command can lead to, and which command leads there. -/
theorem exec_cases {i : Instr} {s t : State} (h : exec i s = .next t) :
    t = s ∨ t = s.raise .stopped (encode i) ∨ (∃ dev, i = .mod dev ∧ t = s.modulate dev) ∨
      (∃ v, i = .ldkl v ∧ t = s.setScale (withLowHalf s.kscale v)) ∨
      (∃ v, i = .ldkh v ∧ t = s.setScale (withHighHalf s.kscale v)) ∨
      (i = .clrph ∧ t = s.setPhase 0) ∨ (i = .flush ∧ t = s.endStream) := by
  cases i with
  | mod dev => obtain ⟨-, rfl⟩ | ⟨-, -, rfl⟩ | ⟨-, -, -, rfl⟩ | ⟨-, -, -, -, rfl⟩ := execMod_cases h <;> simp
  | ldkl v =>
    rw [exec, execLdkl_eq] at h
    cases h
    split <;> simp
  | ldkh v =>
    rw [exec, execLdkh_eq] at h
    cases h
    split <;> simp
  | clrph =>
    rw [exec, execClrph_eq] at h
    cases h
    split <;> simp
  | flush =>
    rw [exec, execFlush_eq] at h
    cases h
    split
    · simp
    · split <;> simp

@[simp] theorem State.modulate_cmd (s : State) (dev : Int) : (s.modulate dev).cmd = s.cmd := rfl

/-- No command touches the words behind it. -/
theorem exec_cmd {i : Instr} {s t : State} (h : exec i s = .next t) : t.cmd = s.cmd := by
  obtain rfl | rfl | ⟨dev, -, rfl⟩ | ⟨v, -, rfl⟩ | ⟨v, -, rfl⟩ | ⟨-, rfl⟩ | ⟨-, rfl⟩ := exec_cases h <;> simp

/-- A step takes at most the first word from the command port (30_encoding.md R66: in the order presented). -/
theorem step_cmd {s t : State} (h : step s = .next t) : t.cmd = s.cmd ∨ t.cmd = s.cmd.tail := by
  obtain ⟨-, rfl⟩ | ⟨-, rfl⟩ | ⟨_, _, -, rfl⟩ | ⟨_, -, hexec⟩ | ⟨_, -, rfl⟩ | ⟨_, -, rfl⟩ | ⟨-, rfl⟩ := step_cases h
  · exact .inl s.passTurn_cmd
  · exact .inr s.acceptWord_cmd
  · exact .inr (State.raise_cmd _ _ _)
  · exact .inr (exec_cmd hexec)
  · exact .inl (State.reply_cmd _ _)
  · exact .inl (State.release_cmd _ _)
  · exact .inl (State.resetEvent_cmd _)

/-! ### The elements of CPFM -/

/-- Two states agree in every element of CPFM (10_state.md R22 to R31, complete by R38). -/
structure State.SameElements (s t : State) : Prop where
  acc : t.acc = s.acc
  kscale : t.kscale = s.kscale
  buf : t.buf = s.buf
  wrPtr : t.wrPtr = s.wrPtr
  vcnt : t.vcnt = s.vcnt
  own : t.own = s.own
  eos : t.eos = s.eos
  sfail : t.sfail = s.sfail
  errc : t.errc = s.errc
  errw : t.errw = s.errw

theorem State.SameElements.trans {s t u : State} (h : s.SameElements t) (h' : t.SameElements u) : s.SameElements u where
  acc := h'.acc.trans h.acc
  kscale := h'.kscale.trans h.kscale
  buf := h'.buf.trans h.buf
  wrPtr := h'.wrPtr.trans h.wrPtr
  vcnt := h'.vcnt.trans h.vcnt
  own := h'.own.trans h.own
  eos := h'.eos.trans h.eos
  sfail := h'.sfail.trans h.sfail
  errc := h'.errc.trans h.errc
  errw := h'.errw.trans h.errw

theorem State.sameElements_passTurn (s : State) : s.SameElements s.passTurn :=
  ⟨rfl, rfl, rfl, rfl, rfl, rfl, rfl, rfl, rfl, rfl⟩

theorem State.sameElements_acceptWord (s : State) : s.SameElements s.acceptWord :=
  ⟨rfl, rfl, rfl, rfl, rfl, rfl, rfl, rfl, rfl, rfl⟩

theorem State.sameElements_presentWord (s : State) (n w : Nat) : s.SameElements (s.presentWord n w) :=
  ⟨rfl, rfl, rfl, rfl, rfl, rfl, rfl, rfl, rfl, rfl⟩

/-- An acknowledged read changes no element (43_sink_port.md R121). -/
theorem State.sameElements_read (s : State) (slot : Count) : s.SameElements (s.acceptSink.reply slot) :=
  ⟨rfl, rfl, rfl, rfl, rfl, rfl, rfl, rfl, rfl, rfl⟩

/-! ### What ends a hold -/

/-- A hold depends on the presented word and the elements of CPFM alone. -/
theorem State.headHeld.congr {s t : State} (h : s.headHeld) (hcmd : t.cmd = s.cmd) (hsame : s.SameElements t) :
    t.headHeld := by
  obtain ⟨w, i, hw, hd, hh⟩ := h
  refine ⟨w, i, hcmd ▸ hw, hd, ?_⟩
  rw [State.holds_iff] at hh ⊢
  rwa [hsame.errc, hsame.eos, hsame.sfail, hsame.own]

/-- A held word is what the command agent's turn finds, and it is held in that turn. -/
theorem State.headHeld.commandAction_eq {s : State} {w : Word} (h : s.headHeld) (hw : s.cmd.head? = some w) :
    ∃ i, s.commandAction w = .held i := by
  obtain ⟨w', i, hw', hd, hh⟩ := h
  obtain rfl : w' = w := Option.some.inj (hw'.symm.trans hw)
  obtain ⟨herr, -⟩ := (s.holds_iff i).mp hh
  have hf := s.faulted_eq_false_iff.mpr herr
  exact ⟨i, by simp [State.commandAction, hf, hd, hh]⟩

/-- A turn under a hold accepts no word. -/
theorem State.headHeld.action_cases {s : State} (h : s.headHeld) :
    (s.action = .idle ∨ (∃ i, s.action = .held i) ∨ ∃ slot, s.action = .wait slot) ∨
      (∃ slot, s.action = .read slot) ∨ (∃ ok, s.action = .release ok) ∨ s.action = .reset := by
  cases hturn : s.turns with
  | nil => exact .inl (.inl (by simp [State.action, hturn]))
  | cons a ts =>
    cases a with
    | command =>
      have ⟨w, _, hw, _⟩ := h
      obtain ⟨ws, hws⟩ := List.head?_eq_some_iff.mp hw
      rw [State.action_of_presented hturn hws]
      exact .inl (.inr (.inl (h.commandAction_eq hw)))
    | sink =>
      cases hsink : s.sink with
      | nil => exact .inl (.inl (by simp [State.action, hturn, hsink]))
      | cons op ops =>
        rw [State.action_of_requested hturn hsink]
        cases op with
        | rd slot => rw [State.sinkAction]; split <;> simp
        | rel ok => simp [State.sinkAction]
    | reset => exact .inr (.inr (.inr (by simp [State.action, hturn])))

/-- A step under a hold leaves it in place unless it is a release or the reset event (30_encoding.md R66). -/
theorem State.headHeld.step_cases {s t : State} (h : s.headHeld) (hstep : step s = .next t) :
    t.headHeld ∨ s.action = .reset ∨ ∃ ok, s.action = .release ok := by
  obtain hpass | ⟨slot, ha⟩ | hrel | hreset := h.action_cases
  · have hstep' : step s = .next s.passTurn := by
      obtain ha | ⟨i, ha⟩ | ⟨slot, ha⟩ := hpass <;> rw [step, ha]
    cases hstep'.symm.trans hstep
    exact .inl (h.congr rfl s.sameElements_passTurn)
  · have hstep' : step s = .next (s.acceptSink.reply slot) := by rw [step, ha]; rfl
    cases hstep'.symm.trans hstep
    exact .inl (h.congr rfl (s.sameElements_read slot))
  · exact .inr (.inr hrel)
  · exact .inr (.inl hreset)

/-! ### Every word has an effect in some state -/

/-- A word that has just been put at the command port is presented. -/
theorem presentWord_presents (s : State) (w : Word) : (s.presentWord 32 w.toNat).presents w :=
  ⟨rfl, by simp [State.presentWord, Nat.mod_eq_of_lt w.isLt]⟩

/-- Accepting a word undoes presenting it. -/
@[simp] theorem acceptWord_presentWord (s : State) (n w : Nat) : (s.presentWord n w).acceptWord = s := rfl

/-- Every command changes an element of CPFM in some state that is not faulted and holds nothing. -/
theorem exists_effect (i : Instr) :
    ∃ s t : State, s.errc = none ∧ s.own = false ∧ exec i s = .next t ∧ ¬ s.SameElements t := by
  cases i with
  | mod dev =>
    have hexec := exec_mod_running (s := State.reset) dev rfl rfl rfl rfl (by decide)
    refine ⟨State.reset, _, rfl, rfl, hexec, fun h => ?_⟩
    have hptr : (1 : Count) = 0 := h.wrPtr
    exact absurd hptr (by decide)
  | ldkl v =>
    refine ⟨{ State.reset with kscale := withLowHalf 0 (~~~v) }, _, rfl, rfl, rfl, fun h => ?_⟩
    have hlow : v = ~~~v := by simpa using congrArg (·.extractLsb' 0 16) h.kscale
    exact BitVec.ne_not_self (by decide) hlow
  | ldkh v =>
    refine ⟨{ State.reset with kscale := withHighHalf 0 (~~~v) }, _, rfl, rfl, rfl, fun h => ?_⟩
    have hhigh : v = ~~~v := by simpa using congrArg (·.extractLsb' 16 16) h.kscale
    exact BitVec.ne_not_self (by decide) hhigh
  | clrph =>
    refine ⟨{ State.reset with acc := 1 }, _, rfl, rfl, rfl, fun h => ?_⟩
    have hphase : (0 : Phase) = 1 := h.acc
    exact absurd hphase (by decide)
  | flush =>
    refine ⟨State.reset, State.reset.endStream, rfl, rfl, exec_flush_running rfl rfl rfl, fun h => ?_⟩
    have heos : true = false := h.eos
    cases heos

/-- No word is a no-operation: each has a state, not faulted, in which its acceptance changes an element of CPFM
(30_encoding.md R64). -/
theorem exists_accepted_with_effect (w : Word) :
    ∃ s t : State, s.presents w ∧ s.errc = none ∧ step s = .next t ∧ ¬ s.SameElements t := by
  cases hd : decode w with
  | illegal c =>
    have hpres := presentWord_presents State.reset w
    refine ⟨_, _, hpres, rfl, step_illegal hpres rfl hd, fun h => ?_⟩
    have hcode : some c = none := h.errc
    cases hcode
  | ok i =>
    obtain ⟨s, t, herr, hown, hexec, hne⟩ := exists_effect i
    have hpres := presentWord_presents s w
    have hstep := step_command hpres herr hd (State.holds_of_not_own i hown)
    exact ⟨_, t, hpres, herr, hstep.trans hexec, fun h => hne ((s.sameElements_presentWord _ _).trans h)⟩

end Sys2Proof.Machine
end

section
/-! CERTIFICATES. The encoding of the commands, and the acceptance of a presented word (30_encoding.md). -/

namespace Sys2Proof.Machine

/-- The rows of 30_encoding.md R62 exclude each other. -/
theorem opcodeRows_pairwise (w : Word) :
    (opcodes.map opcodeRow).Pairwise fun r q => ¬ (w &&& r.2 = r.1 ∧ w &&& q.2 = q.1) := by
  have distinct : opcodes.Pairwise (· ≠ ·) := by decide
  exact List.pairwise_map.mpr (distinct.imp fun hne ⟨hk, hl⟩ => hne (MatchesRow.unique hk hl))

/-- Settles O3: a row selects the words with its fields, and those are the words the decoder takes for its command. -/
theorem decodeFollowsMaskTable : Obligations.DecodeFollowsMaskTable := by
  intro w
  refine ⟨matchesRow_iff_decode w .mod, matchesRow_iff_decode w .ldkl, matchesRow_iff_decode w .ldkh,
    matchesRow_iff_decode w .clrph, matchesRow_iff_decode w .flush, opcodeRows_pairwise w, fun hnone => ?_⟩
  obtain ⟨c, hc⟩ := decode_of_no_row fun k => hnone _ (List.mem_map_of_mem (f := opcodeRow) (mem_opcodes k))
  refine ⟨c, hc, fun s hpres herr => ⟨_, step_illegal hpres herr hc, ?_⟩⟩
  rw [State.raise_first (s := s.acceptWord) c w herr]
  exact ⟨rfl, rfl⟩

/-- Settles O4: the classes by the decoder's cases on the fields, and an effect in some state for every word. -/
theorem everyWordClassified : Obligations.EveryWordClassified := by
  refine ⟨by decide, by decide, fun w => ⟨?illop, ?reserved, ?immediate, ?command, ?effect⟩⟩
  case illop => exact fun hop => decode_of_no_opcode (opcodeOf_eq_none hop)
  case reserved =>
    rintro ⟨hlo, hhi, hrsv⟩
    obtain ⟨k, hop⟩ := exists_opcodeBits hlo hhi
    exact (decode_of_opcode hop).trans (if_pos hrsv)
  case immediate =>
    rintro ⟨(hval : (opField w).toNat = 4 ∨ (opField w).toNat = 5), (hrsv : rsvField w = 0), himm⟩
    obtain ⟨k, hop⟩ := exists_opcodeBits (op := opField w) (by omega) (by omega)
    have hk : immMustBeZero k = true := by
      rw [immMustBeZero_iff, ← hop]
      omega
    rw [decode_of_opcode hop, if_neg (not_not_intro hrsv), if_pos ⟨hk, himm⟩]
  case command =>
    rintro ⟨hlo, hhi, hrsv, himm⟩
    obtain ⟨k, hop⟩ := exists_opcodeBits hlo hhi
    have hzero : immMustBeZero k = true → immField w = 0 := fun hk => by
      rw [immMustBeZero_iff, ← hop] at hk
      exact himm.resolve_left (by omega)
    have hrow : MatchesRow w k := (matchesRow_iff w k).mpr ⟨hop, hrsv, hzero⟩
    refine ⟨⟨_, hrow.decode_eq⟩, ?_⟩
    have hone : ((opcodes.map opcodeRow).filter fun r => decide (w &&& r.2 = r.1)).length = 1 := by
      rw [List.filter_map, List.length_map]
      exact congrArg List.length (filter_matchesRow hrow)
    exact hone
  case effect =>
    obtain ⟨s, t, hpres, herr, hstep, hne⟩ := exists_accepted_with_effect w
    exact ⟨s, t, hpres, herr, hstep, fun h => hne (h ▸ s.sameElements_acceptWord),
      fun h => hne (h ▸ s.sameElements_passTurn)⟩

/-- Settles O8: the turn of the command agent by cases, and the hold kept by every step but a release and a reset. -/
theorem acceptanceFollowsHold : Obligations.AcceptanceFollowsHold := by
  refine ⟨fun s w hpres => ⟨?held, fun hfree => ⟨?discarded, ?illegal, ?stopped, ?executed⟩⟩, ?lifted,
    fun s t => step_cmd⟩
  case held =>
    rintro ⟨herr, ⟨dev, hd⟩, heos, hsfail, hown⟩
    exact step_held hpres herr hd ((s.holds_iff _).mpr ⟨herr, ⟨dev, rfl⟩, heos, hsfail, hown⟩)
  case discarded => exact step_discards hpres
  case illegal =>
    intro herr c hd
    rw [step_illegal hpres herr hd, State.raise_first (s := s.acceptWord) c w herr]
    rfl
  case stopped =>
    intro herr i hd hi hend
    have hended : s.ended = true := s.ended_eq_true_iff.mpr hend
    rw [step_command hpres herr hd (State.holds_of_ended i hended),
      exec_stopped (s := s.acceptWord) herr ((stoppable_iff i).mpr hi) hended, encode_of_decode hd,
      State.raise_first (s := s.acceptWord) .stopped w herr]
    rfl
  case executed =>
    intro herr i hd _
    refine step_command hpres herr hd (Bool.eq_false_iff.mpr fun hh => hfree ?_)
    obtain ⟨-, ⟨dev, rfl⟩, hflags⟩ := (s.holds_iff i).mp hh
    exact ⟨herr, ⟨dev, hd⟩, hflags⟩
  case lifted => exact fun s t hheld hstep hfree => (hheld.step_cases hstep).resolve_left hfree

end Sys2Proof.Machine
end

section
/-! SUPPORT. The datapath of `MOD` (40_modulate.md R82, R83): the bounds of the increment, the accumulator as a number, and
the table index as a quotient. -/

namespace Sys2Proof.Machine

/-! ### The increment -/

/-- The increment between the products of the extreme deviations with the greatest constant. -/
theorem phaseIncrement_bounds {dev : Int} (k : Word) (hlo : -32768 ≤ dev) (hhi : dev ≤ 32767) :
    -32768 * (2 ^ 32 - 1) ≤ phaseIncrement dev k ∧ phaseIncrement dev k ≤ 32767 * (2 ^ 32 - 1) := by
  have hnonneg : (0 : Int) ≤ k.toNat := Int.natCast_nonneg _
  have hmax : (k.toNat : Int) ≤ 2 ^ 32 - 1 := by omega
  rw [phaseIncrement]
  constructor
  · calc (-32768 : Int) * (2 ^ 32 - 1) ≤ -32768 * k.toNat := mul_le_mul_of_nonpos_left hmax (by omega)
      _ ≤ dev * k.toNat := mul_le_mul_of_nonneg_right hlo hnonneg
  · calc dev * (k.toNat : Int) ≤ 32767 * k.toNat := mul_le_mul_of_nonneg_right hhi hnonneg
      _ ≤ 32767 * (2 ^ 32 - 1) := mul_le_mul_of_nonneg_left hmax (by omega)

/-- The increment is at least 2^15 short of half a turn. -/
theorem abs_phaseIncrement_le {dev : Int} (k : Word) (hlo : -32768 ≤ dev) (hhi : dev ≤ 32767) :
    |phaseIncrement dev k| ≤ 2 ^ 47 - 2 ^ 15 := by
  obtain ⟨hmin, hmax⟩ := phaseIncrement_bounds k hlo hhi
  exact abs_le.mpr ⟨by omega, by omega⟩

/-! ### The accumulator -/

/-- The new accumulator as a number: the sum with the floor modulus (40_modulate.md R82). -/
theorem nextPhase_toNat (acc : Phase) (dev : Int) (k : Word) :
    ((nextPhase acc dev k).toNat : Int) = ((acc.toNat : Int) + phaseIncrement dev k) % 2 ^ 48 := by
  rw [nextPhase, BitVec.toNat_ofInt]
  omega

/-- The floor modulus is the 48-bit addition with the carry dropped. -/
theorem nextPhase_eq_add (acc : Phase) (dev : Int) (k : Word) :
    nextPhase acc dev k = acc + BitVec.ofInt 48 (phaseIncrement dev k) := by
  rw [nextPhase, BitVec.ofInt_add, BitVec.ofInt_natCast, BitVec.ofNat_toNat, BitVec.setWidth_eq]

/-- The accumulator's number determines it. -/
theorem eq_nextPhase {acc acc1 : Phase} {dev : Int} {k : Word}
    (h : (acc1.toNat : Int) = ((acc.toNat : Int) + phaseIncrement dev k) % 2 ^ 48) : acc1 = nextPhase acc dev k :=
  BitVec.eq_of_toNat_eq (Int.ofNat_inj.mp (h.trans (nextPhase_toNat acc dev k).symm))

/-! ### The table index -/

/-- The index is the accumulator in table steps, truncated (40_modulate.md R83). -/
theorem tableIndex_toNat (a : Phase) : (tableIndex a).toNat = a.toNat / 2 ^ 38 := by
  rw [tableIndex, BitVec.extractLsb'_toNat, Nat.shiftRight_eq_div_pow]
  omega

/-- The index's number determines it. -/
theorem eq_tableIndex {a : Phase} {idx : Index} (h : idx.toNat = a.toNat / 2 ^ 38) : idx = tableIndex a :=
  BitVec.eq_of_toNat_eq (h.trans (tableIndex_toNat a).symm)

end Sys2Proof.Machine
end

section
/-! SUPPORT. `MOD` as a command (40_modulate.md R81): its word, its discarding while faulted, and the state after a sample. -/

namespace Sys2Proof.Machine

/-! ### The word -/

/-- The word of a `MOD` is in the row of `MOD`, whatever the operand. -/
theorem matchesRow_encode_mod (dev : Int) : MatchesRow (encode (.mod dev)) .mod := by
  obtain ⟨hop, hrsv, -⟩ := Laws.EncodedFields.mod dev
  exact (matchesRow_iff _ _).mpr ⟨hop, hrsv, fun h => absurd h (by decide)⟩

/-- A 16-bit operand comes back out of the word (30_encoding.md R63). -/
theorem decode_encode_mod {dev : Int} (hlo : -32768 ≤ dev) (hhi : dev ≤ 32767) :
    decode (encode (.mod dev)) = .ok (.mod dev) := by
  obtain ⟨-, -, himm⟩ := Laws.EncodedFields.mod dev
  have hdev : (BitVec.ofInt 16 dev).toInt = dev := BitVec.toInt_ofInt_eq_self (by omega) (by omega) (by omega)
  rw [(matchesRow_encode_mod dev).decode_eq, himm, withImm, immOfInstr, hdev]

/-! ### The discarding -/

/-- While faulted every command is discarded (60_exceptions.md R134). -/
theorem exec_faulted {s : State} (i : Instr) (herr : s.errc ≠ none) : exec i s = .next s := by
  have hf : s.faulted = true := Option.isSome_iff_ne_none.mpr herr
  cases i with
  | mod dev => simp [exec, execMod, hf]
  | ldkl v => simp [exec, execLdkl_eq, hf]
  | ldkh v => simp [exec, execLdkh_eq, hf]
  | clrph => simp [exec, execClrph_eq, hf]
  | flush => simp [exec, execFlush_eq, hf]

/-! ### The state after a sample -/

@[simp] theorem State.modulate_acc (s : State) (dev : Int) : (s.modulate dev).acc = nextPhase s.acc dev s.kscale := rfl

@[simp] theorem State.modulate_wrPtr (s : State) (dev : Int) :
    (s.modulate dev).wrPtr = if decide (s.wrPtr.toNat + 1 = s.cfg.bufCap) then 0 else s.wrPtr + 1 := rfl

@[simp] theorem State.modulate_vcnt (s : State) (dev : Int) :
    (s.modulate dev).vcnt =
      if decide (s.wrPtr.toNat + 1 = s.cfg.bufCap) then BitVec.ofNat 24 s.cfg.bufCap else s.vcnt := rfl

@[simp] theorem State.modulate_own (s : State) (dev : Int) :
    (s.modulate dev).own = (decide (s.wrPtr.toNat + 1 = s.cfg.bufCap) || s.own) := rfl

/-- The sample in the last slot hands the full buffer over in the same step (40_modulate.md R84). -/
theorem State.modulate_lastSlot {s : State} (dev : Int) (hcap : s.cfg.capOk = true)
    (hlast : s.wrPtr.toNat + 1 = s.cfg.bufCap) :
    (s.modulate dev).vcnt.toNat = s.cfg.bufCap ∧ (s.modulate dev).wrPtr = 0 ∧ (s.modulate dev).own = true := by
  simp only [Config.capOk, Bool.and_eq_true, decide_eq_true_eq] at hcap
  have hfit : s.cfg.bufCap < 2 ^ 24 := by omega
  simpa [hlast] using hfit

/-- A sample in any other slot only moves the pointer on (40_modulate.md R84). -/
theorem State.modulate_innerSlot {s : State} (dev : Int) (hcap : s.cfg.capOk = true) (hown : s.own = false)
    (hinner : s.wrPtr.toNat + 1 < s.cfg.bufCap) :
    (s.modulate dev).vcnt = s.vcnt ∧ (s.modulate dev).wrPtr.toNat = s.wrPtr.toNat + 1 ∧
      (s.modulate dev).own = false := by
  simp only [Config.capOk, Bool.and_eq_true, decide_eq_true_eq] at hcap
  have hfit : s.wrPtr.toNat + 1 < 2 ^ 24 := by omega
  simpa [hinner.ne, hown, BitVec.toNat_add] using hfit

/-- The state after a sample as the pseudocode of 40_modulate.md R81 writes it, with the pointer at a slot. -/
theorem State.modulate_eq {s : State} (dev : Int) (hown : s.own = false) (hptr : s.wrPtr.toNat < s.cfg.bufCap) :
    s.modulate dev = { s with
      acc := nextPhase s.acc dev s.kscale
      buf := s.buf.writeSlot s.wrPtr.toNat (samplePair s.cfg (tableIndex (nextPhase s.acc dev s.kscale)))
      wrPtr := if s.wrPtr.toNat = s.cfg.bufCap - 1 then 0 else s.wrPtr + 1
      vcnt := if s.wrPtr.toNat = s.cfg.bufCap - 1 then BitVec.ofNat 24 s.cfg.bufCap else s.vcnt
      own := decide (s.wrPtr.toNat = s.cfg.bufCap - 1) } := by
  have hlast : s.wrPtr.toNat + 1 = s.cfg.bufCap ↔ s.wrPtr.toNat = s.cfg.bufCap - 1 := by omega
  simp [State.modulate, State.appendSlot, State.setPhase, hlast, hown]

end Sys2Proof.Machine
end

section
/-! SUPPORT. What writes the accumulator (40_modulate.md R88): an executed `MOD`, an executed `CLRPH` and the reset event. -/

namespace Sys2Proof.Machine

/-- A command executed for its own effect is the one the turn accepts. -/
theorem State.action_of_executed {s : State} {i : Instr} (h : s.executed = some i) : s.action = .command i := by
  unfold State.executed at h
  split at h
  · next j hj =>
    split at h
    · cases h
    · cases h
      exact hj
  · cases h

/-- An accepted command that does not fault is executed for its own effect. -/
theorem State.executed_of_action {s : State} {i : Instr} (h : s.action = .command i)
    (hrun : stoppable i = false ∨ s.ended = false) : s.executed = some i := by
  obtain hi | he := hrun
  · simp [State.executed, h, hi]
  · simp [State.executed, h, he]

/-- A command leaves `ACC` alone, or is a running `MOD` or a `CLRPH`. -/
theorem exec_acc_cases {i : Instr} {s t : State} (h : exec i s = .next t) :
    t.acc = s.acc ∨ (∃ dev, i = .mod dev ∧ s.ended = false ∧ t = s.modulate dev) ∨
      (i = .clrph ∧ t = s.setPhase 0) := by
  obtain rfl | rfl | ⟨dev, rfl, -⟩ | ⟨v, -, rfl⟩ | ⟨v, -, rfl⟩ | hclrph | ⟨-, rfl⟩ := exec_cases h
  · exact .inl rfl
  · exact .inl (State.raise_acc _ _ _)
  · obtain ⟨-, rfl⟩ | ⟨-, -, rfl⟩ | ⟨-, -, -, rfl⟩ | ⟨-, he, -, -, rfl⟩ := execMod_cases h
    · exact .inl rfl
    · exact .inl (State.raise_acc _ _ _)
    · exact .inl rfl
    · exact .inr (.inl ⟨dev, rfl, he, rfl⟩)
  · exact .inl (State.setScale_acc _ _)
  · exact .inl (State.setScale_acc _ _)
  · exact .inr (.inr hclrph)
  · exact .inl s.endStream_acc

/-- A step leaves `ACC` alone, or is an executed `MOD`, an executed `CLRPH` or the reset event. -/
theorem step_acc_cases {s t : State} (h : step s = .next t) :
    t.acc = s.acc ∨ (∃ dev, s.executed = some (.mod dev) ∧ t = s.acceptWord.modulate dev) ∨
      (s.executed = some .clrph ∧ t = s.acceptWord.setPhase 0) ∨
      (s.action = .reset ∧ t = s.passTurn.resetEvent) := by
  obtain ⟨-, rfl⟩ | ⟨-, rfl⟩ | ⟨_, _, -, rfl⟩ | ⟨i, hi, hexec⟩ | ⟨_, -, rfl⟩ | ⟨_, -, rfl⟩ | hreset := step_cases h
  · exact .inl s.passTurn_acc
  · exact .inl s.acceptWord_acc
  · exact .inl (State.raise_acc _ _ _)
  · obtain hsame | ⟨dev, rfl, he, ht⟩ | ⟨rfl, ht⟩ := exec_acc_cases hexec
    · exact .inl hsame
    · exact .inr (.inl ⟨dev, State.executed_of_action hi (.inr he), ht⟩)
    · exact .inr (.inr (.inl ⟨State.executed_of_action hi (.inl rfl), ht⟩))
  · exact .inl (State.reply_acc _ _)
  · exact .inl (State.release_acc _ _)
  · exact .inr (.inr (.inr hreset))

/-- A step whose turn is neither a `MOD`, a `CLRPH` nor the reset event leaves `ACC` alone. -/
theorem step_acc_of_action {s t : State} (h : step s = .next t) (hmod : ∀ dev, s.action ≠ .command (.mod dev))
    (hclrph : s.action ≠ .command .clrph) (hreset : s.action ≠ .reset) : t.acc = s.acc := by
  obtain hsame | ⟨dev, he, -⟩ | ⟨he, -⟩ | ⟨ha, -⟩ := step_acc_cases h
  · exact hsame
  · exact absurd (State.action_of_executed he) (hmod dev)
  · exact absurd (State.action_of_executed he) hclrph
  · exact absurd ha hreset

end Sys2Proof.Machine
end

section
/-! CERTIFICATES. `MOD`: the command, its phase, its table read, its slot, and what else writes the phase
(40_modulate.md). -/

namespace Sys2Proof.Machine

/-- Settles O10: the row of `MOD`, the turn by cases, and the state after a sample as the pseudocode has it. -/
theorem modCommand : Obligations.ModCommand := by
  refine ⟨fun w (hrow : MatchesRow w .mod) => hrow.decode_eq, fun dev _ _ => ?encoding,
    fun s dev hlo hhi hpres herr heos hsfail hown => ?held, fun s dev herr => exec_faulted _ herr,
    fun s dev herr hend => ?stopped,
    fun s dev _ _ herr heos hsfail hown hptr inc acc1 idx hinc hacc hidx => ?running, ?worked⟩
  case encoding =>
    obtain ⟨-, -, himm⟩ := Laws.EncodedFields.mod dev
    exact ⟨matchesRow_encode_mod dev, himm⟩
  case held =>
    exact step_held hpres herr (decode_encode_mod hlo hhi)
      ((s.holds_iff _).mpr ⟨herr, ⟨dev, rfl⟩, heos, hsfail, hown⟩)
  case stopped =>
    rw [exec_stopped herr rfl (s.ended_eq_true_iff.mpr hend), State.raise_first _ _ herr]
  case running =>
    subst hinc
    obtain rfl := eq_nextPhase hacc
    obtain rfl := eq_tableIndex hidx
    rw [exec_mod_running dev herr heos hsfail hown hptr, State.modulate_eq dev hown hptr]
    rfl
  case worked =>
    exact ⟨_, exec_mod_running (s := State.reset) 16384 rfl rfl rfl rfl (by decide), by decide, by decide, by decide,
      by decide, by decide, by decide, by decide, by decide⟩

/-- Settles O11: the bounds of the product, the accumulator as a number and as a sum, and a running `MOD`'s flags. -/
theorem phaseAccumulates : Obligations.PhaseAccumulates := by
  refine ⟨fun dev k hlo hhi => ?_, fun acc dev k => ⟨nextPhase_toNat acc dev k, nextPhase_eq_add acc dev k⟩,
    fun s dev _ _ herr heos hsfail hown hptr => ?_⟩
  · obtain ⟨hmin, hmax⟩ := phaseIncrement_bounds k hlo hhi
    have habs := abs_phaseIncrement_le k hlo hhi
    exact ⟨rfl, hmin, hmax, habs, by omega⟩
  · exact ⟨s.modulate dev, exec_mod_running dev herr heos hsfail hown hptr, rfl, rfl, rfl, rfl, rfl, by simp [hown]⟩

/-- Settles O12: the index is a quotient, the table is bounded, and the slot holds the pair of the new phase. -/
theorem tableReadAtTopBits : Obligations.TableReadAtTopBits := by
  refine ⟨fun a => ?_, fun a b hab => eq_tableIndex ((tableIndex_toNat a).trans hab), fun c k hc => ?_,
    fun s dev herr heos hsfail hown hptr => ?_⟩
  · have hidx := tableIndex_toNat a
    exact ⟨hidx, rfl, by omega, by omega⟩
  · obtain ⟨hcos, hcos'⟩ := cosRom_bounds hc k
    exact ⟨hcos, hcos', sinRom_bounds hc k⟩
  · exact ⟨s.modulate dev, exec_mod_running dev herr heos hsfail hown hptr, s.modulate_slot dev⟩

/-- Settles O13: the slot written is the pointer's, and the pointer is at the last slot or below it. -/
theorem sampleWrittenAndHandedOver : Obligations.SampleWrittenAndHandedOver := by
  intro s dev herr heos hsfail hown hcap hptr
  refine ⟨s.modulate dev, _, _, exec_mod_running dev herr heos hsfail hown hptr, rfl, rfl, s.modulate_slot dev,
    fun a ha => ?outside, fun hlast => State.modulate_lastSlot dev hcap (by omega),
    fun hinner => State.modulate_innerSlot dev hcap hown (by omega), fun hone => ?single⟩
  case outside => exact Memory.read_writeSlot_outside _ _ _ (by omega)
  case single =>
    obtain ⟨-, -, hover⟩ := State.modulate_lastSlot dev hcap (by omega)
    exact hover

/-- Settles O42: the ways a step can write the accumulator; of these only a `MOD` can set `OWN`. -/
theorem noImplicitPhaseClear : Obligations.NoImplicitPhaseClear := by
  refine ⟨fun s t h hne => ?changes, fun s t h hfree hover => ?handOver, fun s t ok h ha => ?released,
    fun s t i h ha hi => ?others⟩
  case changes =>
    obtain hsame | ⟨dev, he, rfl⟩ | ⟨he, rfl⟩ | ⟨ha, rfl⟩ := step_acc_cases h
    · exact absurd hsame hne
    · exact .inl ⟨dev, he, rfl⟩
    · exact .inr (.inl ⟨he, rfl⟩)
    · exact .inr (.inr ⟨ha, rfl⟩)
  case handOver =>
    obtain hsame | ⟨dev, he, rfl⟩ | ⟨-, rfl⟩ | ⟨-, rfl⟩ := step_acc_cases h
    · exact .inl hsame
    · exact .inr ⟨dev, he, rfl⟩
    · exact absurd (hfree.symm.trans hover) Bool.false_ne_true
    · exact absurd hover Bool.false_ne_true
  case released => exact step_acc_of_action h (by simp [ha]) (by simp [ha]) (by simp [ha])
  case others =>
    obtain rfl | ⟨v, rfl⟩ | ⟨v, rfl⟩ := hi <;>
      exact step_acc_of_action h (by simp [ha]) (by simp [ha]) (by simp [ha])

end Sys2Proof.Machine
end

section
/-! SUPPORT. The words of the commands that are no `MOD`, and that none of these is ever held (30_encoding.md R62, R64,
R66). -/

namespace Sys2Proof

/-- The word of a command is in the command's row. -/
theorem matchesRow_encode (i : Instr) : MatchesRow (encode i) (opcodeOfInstr i) := by
  obtain ⟨hop, hrsv, himm⟩ := Laws.fields_of_parts (opcodeBits (opcodeOfInstr i)) 0 (immOfInstr i)
  refine (matchesRow_iff _ _).mpr ⟨hop, hrsv, fun hzero => himm.trans ?_⟩
  cases i with
  | mod | ldkl | ldkh => cases hzero
  | clrph | flush => rfl

/-- The immediate of a command's word is the command's. -/
theorem immField_encode (i : Instr) : immField (encode i) = immOfInstr i := by
  obtain ⟨-, -, himm⟩ := Laws.fields_of_parts (opcodeBits (opcodeOfInstr i)) 0 (immOfInstr i)
  exact himm

/-- Only a `MOD` has an operand that a word may not carry: every other command comes back from its word. -/
theorem decode_encode_of_not_mod {i : Instr} (h : Machine.isMod i = false) : decode (encode i) = .ok i := by
  rw [(matchesRow_encode i).decode_eq, immField_encode]
  cases i with
  | mod => cases h
  | ldkl | ldkh | clrph | flush => rfl

/-- A command's `op` with a field not zero that must be (30_encoding.md R64 b, c). -/
theorem decode_of_reserved {w : Word} {k : Opcode} (hop : opField w = opcodeBits k)
    (h : rsvField w ≠ 0 ∨ (immMustBeZero k = true ∧ immField w ≠ 0)) : decode w = .illegal .rsvd := by
  rw [decode_of_opcode hop]
  split
  · rfl
  · next hrsv => exact if_pos (h.resolve_left hrsv)

namespace Machine

/-- `MOD` is the only command that can be held (30_encoding.md R66). -/
theorem State.holds_of_not_mod (s : State) {i : Instr} (h : isMod i = false) : s.holds i = false := by
  simp [State.holds, h]

/-- A presented command that is no `MOD` is executed in its turn, whatever the state. -/
theorem step_of_not_mod {s : State} {w : Word} {i : Instr} (hpres : s.presents w) (hd : decode w = .ok i)
    (h : isMod i = false) : step s = exec i s.acceptWord := by
  by_cases herr : s.errc = none
  · exact step_command hpres herr hd (s.holds_of_not_mod h)
  · rw [step_discards hpres herr, exec_faulted (s := s.acceptWord) i herr]

end Machine
end Sys2Proof
end

section
/-! SUPPORT. What `LDKL`, `LDKH` and `CLRPH` do to their register (41_config.md R101 to R103), and when the phase stands
still. -/

namespace Sys2Proof.Machine

/-! ### The halves of `KSCALE` -/

/-- The low half already held, loaded again. -/
theorem withLowHalf_self (k : Word) : withLowHalf k (k.extractLsb' 0 16) = k := by
  rw [withLowHalf, BitVec.extractLsb'_append_extractLsb'_eq_extractLsb' (show 16 = 0 + 16 from rfl)]
  exact BitVec.extractLsb'_eq_self

/-- The high half already held, loaded again. -/
theorem withHighHalf_self (k : Word) : withHighHalf k (k.extractLsb' 16 16) = k := withLowHalf_self k

/-- Both halves loaded: nothing of the old constant is left. -/
theorem withHighHalf_withLowHalf (k : Word) (lo hi : Half) : withHighHalf (withLowHalf k lo) hi = hi ++ lo := by
  rw [withHighHalf, extractLow_withLowHalf]

/-! ### The commands while not faulted -/

theorem exec_ldkl_running {s : State} (v : Half) (herr : s.errc = none) :
    exec (.ldkl v) s = .next (s.setScale (withLowHalf s.kscale v)) := by
  simp [exec, execLdkl_eq, s.faulted_eq_false_iff.mpr herr]

theorem exec_ldkh_running {s : State} (v : Half) (herr : s.errc = none) :
    exec (.ldkh v) s = .next (s.setScale (withHighHalf s.kscale v)) := by
  simp [exec, execLdkh_eq, s.faulted_eq_false_iff.mpr herr]

theorem exec_clrph_running {s : State} (herr : s.errc = none) : exec .clrph s = .next (s.setPhase 0) := by
  simp [exec, execClrph_eq, s.faulted_eq_false_iff.mpr herr]

/-! ### Loading or clearing what is there -/

/-- A load of the low half already held changes nothing, faulted or not (41_config.md R101). -/
theorem exec_ldkl_held (s : State) : exec (.ldkl (s.kscale.extractLsb' 0 16)) s = .next s := by
  by_cases herr : s.errc = none
  · rw [exec_ldkl_running _ herr, withLowHalf_self]
    rfl
  · exact exec_faulted _ herr

/-- A load of the high half already held changes nothing, faulted or not (41_config.md R102). -/
theorem exec_ldkh_held (s : State) : exec (.ldkh (s.kscale.extractLsb' 16 16)) s = .next s := by
  by_cases herr : s.errc = none
  · rw [exec_ldkh_running _ herr, withHighHalf_self]
    rfl
  · exact exec_faulted _ herr

/-- A clear of the zero phase changes nothing, faulted or not (41_config.md R103). -/
theorem exec_clrph_zero {s : State} (hacc : s.acc = 0) : exec .clrph s = .next s := by
  by_cases herr : s.errc = none
  · rw [exec_clrph_running herr, ← hacc]
    rfl
  · exact exec_faulted _ herr

/-! ### The next sample -/

/-- A constant of zero freezes the phase (41_config.md R102). -/
theorem nextPhase_zero_scale (acc : Phase) (dev : Int) : nextPhase acc dev 0 = acc := by
  have hinc : phaseIncrement dev 0 = 0 := Int.mul_zero dev
  rw [nextPhase_eq_add, hinc]
  exact BitVec.add_zero acc

/-- The first table index after a clear is that of the increment alone (41_config.md R103). -/
theorem eq_tableIndex_after_clear {dev : Int} {k : Word} {idx : Index}
    (h : (idx.toNat : Int) = (phaseIncrement dev k % 2 ^ 48) / 2 ^ 38) : idx = tableIndex (nextPhase 0 dev k) := by
  have hphase : ((nextPhase 0 dev k).toNat : Int) = phaseIncrement dev k % 2 ^ 48 := by
    simpa using nextPhase_toNat 0 dev k
  exact eq_tableIndex (by omega)

/-- The sample after a clear is the pair at the index of its own increment (41_config.md R103). -/
theorem exec_clrph_mod_slot {s : State} (dev : Int) (herr : s.errc = none) (heos : s.eos = false)
    (hsfail : s.sfail = false) (hown : s.own = false) (hptr : s.wrPtr.toNat < s.cfg.bufCap) :
    ∃ t u, exec .clrph s = .next t ∧ exec (.mod dev) t = .next u ∧
      ∀ k : Index, (k.toNat : Int) = (phaseIncrement dev s.kscale % 2 ^ 48) / 2 ^ 38 →
        u.buf.slot s.wrPtr.toNat = some (samplePair s.cfg k) := by
  refine ⟨_, _, exec_clrph_running herr, exec_mod_running (s := s.setPhase 0) dev herr heos hsfail hown hptr,
    fun k hk => ?_⟩
  rw [eq_tableIndex_after_clear hk]
  exact (s.setPhase 0).modulate_slot dev

end Sys2Proof.Machine
end

section
/-! CERTIFICATES. The configuration commands `LDKL`, `LDKH` and `CLRPH` (41_config.md). -/

namespace Sys2Proof.Machine

/-- Settles O17: the row of `LDKL`, and the state with the low half replaced, from which the next `MOD` runs. -/
theorem ldklCommand : Obligations.LdklCommand := by
  refine ⟨fun w (hrow : MatchesRow w .ldkl) => hrow.decode_eq,
    fun v => ⟨matchesRow_encode (.ldkl v), immField_encode (.ldkl v)⟩,
    fun s v hpres => step_of_not_mod hpres (decode_encode_of_not_mod rfl) rfl,
    fun s v herr => exec_ldkl_running v herr, fun s v herr => exec_faulted _ herr, fun s v hv => ?same,
    fun s v dev herr heos hsfail hown hptr => ?mixed, fun s herr hk => ⟨by decide, ?worked⟩⟩
  case same =>
    subst hv
    exact exec_ldkl_held s
  case mixed =>
    exact ⟨_, _, exec_ldkl_running v herr,
      exec_mod_running (s := s.setScale (withLowHalf s.kscale v)) dev herr heos hsfail hown hptr, rfl⟩
  case worked =>
    have hvalue : withLowHalf 0x5000A001 0x1234 = 0x50001234 := by decide
    rw [exec_ldkl_running _ herr, hk, hvalue]
    rfl

/-- Settles O18: the row of `LDKH`, and the state with the high half replaced, from which the next `MOD` runs. -/
theorem ldkhCommand : Obligations.LdkhCommand := by
  refine ⟨fun w (hrow : MatchesRow w .ldkh) => hrow.decode_eq,
    fun v => ⟨matchesRow_encode (.ldkh v), immField_encode (.ldkh v)⟩,
    fun s v hpres => step_of_not_mod hpres (decode_encode_of_not_mod rfl) rfl,
    fun s v herr => exec_ldkh_running v herr, fun s v herr => exec_faulted _ herr, fun s v hv => ?same,
    fun s v dev herr heos hsfail hown hptr => ?mixed, fun s herr => ?frozen, fun s herr hk => ⟨by decide, ?worked⟩⟩
  case same =>
    subst hv
    exact exec_ldkh_held s
  case mixed =>
    exact ⟨_, _, exec_ldkh_running v herr,
      exec_mod_running (s := s.setScale (withHighHalf s.kscale v)) dev herr heos hsfail hown hptr, rfl⟩
  case frozen =>
    have hscale : withHighHalf (withLowHalf s.kscale 0) 0 = 0 := withHighHalf_withLowHalf s.kscale 0 0
    refine ⟨_, _, exec_ldkl_running 0 herr,
      exec_ldkh_running (s := s.setScale (withLowHalf s.kscale 0)) 0 herr, hscale, fun dev => ?_⟩
    rw [State.setScale_kscale, State.setScale_kscale, hscale]
    exact nextPhase_zero_scale _ dev
  case worked =>
    have hvalue : withHighHalf 0x5000A001 0x8000 = 0x8000A001 := by decide
    rw [exec_ldkh_running _ herr, hk, hvalue]
    rfl

/-- Settles O19: the row of `CLRPH`, the state with the phase cleared and the sample after it, and what else writes the
phase. -/
theorem clrphCommand : Obligations.ClrphCommand := by
  refine ⟨fun w => matchesRow_iff_decode w .clrph, by decide, fun w hop hne => ?reserved,
    fun s hpres => step_of_not_mod hpres (by decide) rfl, fun s herr => exec_clrph_running herr,
    fun s herr => exec_faulted _ herr, fun s hacc => exec_clrph_zero hacc,
    fun s dev herr heos hsfail hown hptr => exec_clrph_mod_slot dev herr heos hsfail hown hptr,
    fun s herr heos hsfail hown hptr => ?zero,
    fun s t h hreset hmod hclrph => ?others, fun s herr _ => exec_clrph_running herr⟩
  case reserved => exact decode_of_reserved (k := .clrph) hop (hne.imp_right fun himm => ⟨rfl, himm⟩)
  case zero =>
    obtain ⟨t, u, hclear, hrun, hslot⟩ := exec_clrph_mod_slot 0 herr heos hsfail hown hptr
    exact ⟨t, u, hclear, hrun, hslot 0 (by simp [phaseIncrement])⟩
  case others =>
    obtain hsame | ⟨dev, he, -⟩ | ⟨he, -⟩ | ⟨ha, -⟩ := step_acc_cases h
    · exact hsame
    · exact absurd he (hmod dev)
    · exact absurd he hclrph
    · exact absurd ha hreset

end Sys2Proof.Machine
end

section
/-! SUPPORT. The state that `FLUSH` leaves (42_stream_control.md R111): with an empty fill, with a fill in progress, and
its effect on the bytes outside the padding and on a second `FLUSH`. -/

namespace Sys2Proof.Machine

/-- With an empty fill `FLUSH` only ends the stream (42_stream_control.md R111). -/
theorem State.endStream_of_empty {s : State} (hw : s.wrPtr = 0) : s.endStream = { s with eos := true } := by
  simp [State.endStream, hw]

/-- With a fill in progress `FLUSH` hands the buffer over with the samples counted (42_stream_control.md R111). -/
theorem State.endStream_of_partial {s : State} (hw : s.wrPtr ≠ 0) :
    s.endStream =
      { s with buf := s.endStream.buf, vcnt := s.wrPtr, wrPtr := 0, own := true, eos := true } := by
  have hw' : s.wrPtr.toNat ≠ 0 := fun h => hw (BitVec.eq_of_toNat_eq h)
  simp [State.endStream, hw']

/-- `FLUSH` writes no byte outside the slots from `WR_PTR` up to the last (42_stream_control.md R111). -/
theorem State.endStream_read_outside (s : State) {a : Nat}
    (h : ¬ (4 * s.wrPtr.toNat ≤ a ∧ a < 4 * s.cfg.bufCap)) : s.endStream.buf.read a = s.buf.read a := by
  rw [State.endStream_buf]
  split
  · exact Memory.read_zeroSlots_outside _ _ _ (by omega)
  · rfl

/-- A `FLUSH` after one that ended the stream faults (42_stream_control.md R111, 60_exceptions.md R132). -/
theorem exec_flush_endStream {s : State} (herr : s.errc = none) :
    exec .flush s.endStream = .next (s.endStream.raise .stopped (encode .flush)) :=
  exec_stopped (s := s.endStream) herr rfl (s.endStream.ended_eq_true_iff.mpr (.inl s.endStream_eos))

/-- `STATUS` of a buffer just handed over by `FLUSH`: `EOS` and `OWN`, and nothing else (10_state.md R33). -/
theorem State.endStream_statusWord {s : State} (hw : s.wrPtr ≠ 0) (herr : s.errc = none) (hsfail : s.sfail = false) :
    s.endStream.statusWord = 0x00000003 := by
  rw [State.endStream_of_partial hw]
  simp only [State.statusWord, herr, hsfail]
  decide

end Sys2Proof.Machine
end

section
/-! CERTIFICATES. `FLUSH` (42_stream_control.md). -/

namespace Sys2Proof.Machine

/-- Settles O22: the row of `FLUSH`, the end of the stream by whether a fill is in progress, and the fault after it. -/
theorem flushCommand : Obligations.FlushCommand := by
  refine ⟨fun w => matchesRow_iff_decode w .flush, by decide, fun w hop hne => ?reserved,
    fun s hpres => step_of_not_mod hpres (by decide) rfl, fun s herr heos hsfail hw => ?empty,
    fun s herr heos hsfail hw => ?padded, fun s herr hend => ?stopped, fun s t herr heos hsfail h => ?again,
    fun s herr => exec_faulted _ herr, fun s hcap hptr _ herr heos hsfail => ?worked⟩
  case reserved => exact decode_of_reserved (k := .flush) hop (hne.imp_right fun himm => ⟨rfl, himm⟩)
  case empty => rw [exec_flush_running herr heos hsfail, State.endStream_of_empty hw]
  case padded =>
    refine ⟨s.endStream.buf, ?_, fun k hp hk => State.endStream_slot_padding hw hp hk,
      fun a ha => s.endStream_read_outside ha⟩
    rw [← State.endStream_of_partial hw]
    exact exec_flush_running herr heos hsfail
  case stopped =>
    have hword : encode .flush = 0x50000000 := by decide
    rw [exec_stopped herr rfl (s.ended_eq_true_iff.mpr hend), State.raise_first _ _ herr, hword]
  case again =>
    rw [exec_flush_running herr heos hsfail] at h
    cases h
    exact ⟨_, exec_flush_endStream herr, by simp [herr]⟩
  case worked =>
    have hw : s.wrPtr ≠ 0 := by simp [hptr]
    have hslot : ∀ k, 2 ≤ k → k < 4 → s.endStream.buf.slot k = some 0 := fun k hp hk =>
      State.endStream_slot_padding hw (by simpa [hptr] using hp) (by omega)
    exact ⟨s.endStream, exec_flush_running herr heos hsfail, hslot 2 (by omega) (by omega), hslot 3 (by omega) (by omega),
      by simp [hptr], rfl, by simp [hptr], rfl, State.endStream_statusWord hw herr hsfail⟩

end Sys2Proof.Machine
end

section
/-! SUPPORT. The release of the buffer (43_sink_port.md R123): its step, the state it leaves by who owns the buffer, and
that a running `MOD` is no no-operation. -/

namespace Sys2Proof.Machine

/-- The sink agent's turn with an operation requested. -/
theorem State.requests.action_eq {s : State} {op : SinkOp} (h : s.requests op) : s.action = s.sinkAction op := by
  obtain ⟨hturn, hsink⟩ := h
  obtain ⟨ts, hts⟩ := List.head?_eq_some_iff.mp hturn
  obtain ⟨ops, hops⟩ := List.head?_eq_some_iff.mp hsink
  exact State.action_of_requested hts hops

/-- `REL` is always accepted (43_sink_port.md R123). -/
theorem step_release {s : State} {ok : Bool} (h : s.requests (.rel ok)) :
    step s = .next (s.acceptSink.release ok) := by
  rw [step, h.action_eq]
  rfl

/-- The buffer the sink holds comes back, and a failed push is remembered (43_sink_port.md R123). -/
theorem State.release_of_own {s : State} (ok : Bool) (hown : s.own = true) :
    s.release ok = { s with own := false, sfail := s.sfail || !ok } := by
  simp [State.release, hown]

/-- While the sink holds no buffer, `REL` changes nothing (43_sink_port.md R123, R124 a). -/
theorem State.release_of_not_own {s : State} (ok : Bool) (hown : s.own = false) : s.release ok = s := by
  have hsfail : (s.sfail || (s.own && !ok)) = s.sfail := by simp [hown]
  rw [State.release, hsfail, ← hown]

/-- A sample moves the pointer or hands the buffer over (40_modulate.md R84). -/
theorem State.modulate_ne_self {s : State} (dev : Int) (hcap : s.cfg.capOk = true) (hown : s.own = false)
    (hptr : s.wrPtr.toNat < s.cfg.bufCap) : s.modulate dev ≠ s := by
  intro hsame
  obtain hinner | hlast := Nat.lt_or_eq_of_le (Nat.succ_le_of_lt hptr)
  · obtain ⟨-, hmoved, -⟩ := State.modulate_innerSlot dev hcap hown hinner
    rw [hsame] at hmoved
    omega
  · obtain ⟨-, -, hover⟩ := State.modulate_lastSlot dev hcap hlast
    rw [hsame, hown] at hover
    cases hover

/-- A running `MOD` changes the state (30_encoding.md R64). -/
theorem exec_mod_ne_self {s : State} (dev : Int) (herr : s.errc = none) (heos : s.eos = false) (hsfail : s.sfail = false)
    (hown : s.own = false) (hcap : s.cfg.capOk = true) (hptr : s.wrPtr.toNat < s.cfg.bufCap) :
    exec (.mod dev) s ≠ .next s := by
  rw [exec_mod_running dev herr heos hsfail hown hptr]
  exact fun h => State.modulate_ne_self dev hcap hown hptr (Host.Outcome.next.inj h)

end Sys2Proof.Machine
end

section
/-! CERTIFICATES. The sink port (43_sink_port.md). -/

namespace Sys2Proof.Machine

/-- Settles O32: the step of `REL` by who owns the buffer, and what the `MOD` or `FLUSH` behind it then does. -/
theorem releaseReturnsBuffer : Obligations.ReleaseReturnsBuffer := by
  refine ⟨fun s ok hreq hown => ?owned, fun s ok hreq hfree => ?free, fun s t i hreq hheld hstep => ?enabled,
    fun s t i hreq hown herr hstep hi => ?stopped⟩
  case owned =>
    rw [step_release hreq, State.release_of_own (s := s.acceptSink) ok hown]
    rfl
  case free =>
    rw [step_release hreq, State.release_of_not_own (s := s.acceptSink) ok hfree]
    rfl
  case enabled =>
    cases (step_release hreq).symm.trans hstep
    refine ⟨State.holds_of_not_own i (State.release_own _ _), fun hinv => ?_⟩
    obtain ⟨herr, ⟨dev, rfl⟩, heos, hsfail, hown⟩ := (s.holds_iff i).mp hheld
    obtain ⟨-, hcap, -⟩ := s.cfg.wf_iff.mp hinv.config
    exact ⟨hinv.owned_pointer hown,
      exec_mod_ne_self (s := s.acceptSink.release true) dev herr heos (by simp [hsfail]) rfl hcap hinv.pointer⟩
  case stopped =>
    cases (step_release hreq).symm.trans hstep
    have hsfail : (s.acceptSink.release false).sfail = true := by simp [hown]
    have hended := (State.ended_eq_true_iff _).mpr (.inr hsfail)
    have hexec := exec_stopped (s := s.acceptSink.release false) herr ((stoppable_iff i).mpr hi) hended
    refine ⟨hsfail, (Bool.or_eq_true _ _).mpr (.inr hsfail), _, hexec, ?_⟩
    rw [State.raise_first (s := s.acceptSink.release false) .stopped (encode i) herr]
    exact ⟨rfl, rfl⟩

end Sys2Proof.Machine
end

section
/-! SUPPORT. Which words the decoder rejects, and with which code, by the fields of the word (30_encoding.md R64,
60_exceptions.md R131). -/

namespace Sys2Proof

/-- A word whose `op` is none of the five (60_exceptions.md R131, code 1). -/
abbrev HasNoOpcode (w : Word) : Prop := (opField w).toNat = 0 ∨ 6 ≤ (opField w).toNat

/-- A word whose `op` is one of the five and which has a field not zero that must be (60_exceptions.md R131, code 2). -/
abbrev BreaksReserved (w : Word) : Prop :=
  1 ≤ (opField w).toNat ∧ (opField w).toNat ≤ 5 ∧ (rsvField w ≠ 0 ∨ (4 ≤ (opField w).toNat ∧ immField w ≠ 0))

theorem decode_of_hasNoOpcode {w : Word} (h : HasNoOpcode w) : decode w = .illegal .illop :=
  decode_of_no_opcode (opcodeOf_eq_none (h.imp_left BitVec.eq_of_toNat_eq))

theorem decode_of_breaksReserved {w : Word} (h : BreaksReserved w) : decode w = .illegal .rsvd := by
  obtain ⟨hlo, hhi, hne⟩ := h
  obtain ⟨k, hop⟩ := exists_opcodeBits hlo hhi
  rw [hop, ← immMustBeZero_iff] at hne
  exact decode_of_reserved hop hne

/-- The decoder rejects a word for its `op` or for a reserved field, and for nothing else. -/
theorem decode_illegal_cases {w : Word} {c : FaultCode} (h : decode w = .illegal c) :
    (c = .illop ∧ HasNoOpcode w) ∨ (c = .rsvd ∧ BreaksReserved w) := by
  by_cases hop : HasNoOpcode w
  · cases (decode_of_hasNoOpcode hop).symm.trans h
    exact .inl ⟨rfl, hop⟩
  by_cases hres : BreaksReserved w
  · cases (decode_of_breaksReserved hres).symm.trans h
    exact .inr ⟨rfl, hres⟩
  have hlo : 1 ≤ (opField w).toNat := by omega
  have hhi : (opField w).toNat ≤ 5 := by omega
  obtain ⟨k, hk⟩ := exists_opcodeBits hlo hhi
  have hzero : ¬ (rsvField w ≠ 0 ∨ (4 ≤ (opField w).toNat ∧ immField w ≠ 0)) := fun hne => hres ⟨hlo, hhi, hne⟩
  rw [hk, ← immMustBeZero_iff, not_or] at hzero
  obtain ⟨hrsv, himm⟩ := hzero
  rw [decode_of_opcode hk, if_neg hrsv, if_neg himm] at h
  cases h

end Sys2Proof
end

section
/-! SUPPORT. The fault of a presented word, as a state (60_exceptions.md R133), and where a fault comes from (R131). -/

namespace Sys2Proof.Machine

/-! ### The state after a fault -/

/-- The word is consumed and recorded with its code, and nothing else changes (60_exceptions.md R133). -/
theorem State.acceptWord_raise_first {s : State} (c : FaultCode) (w : Word) (herr : s.errc = none) :
    s.acceptWord.raise c w = { s with cmd := s.cmd.tail, turns := s.turns.tail, errc := some c, errw := w } := by
  rw [State.raise_first (s := s.acceptWord) c w herr]
  rfl

/-- A later fault is not recorded (60_exceptions.md R133). -/
theorem State.raise_faulted {s : State} (c : FaultCode) (w : Word) (herr : s.errc ≠ none) : s.raise c w = s := by
  simp [State.raise, herr]

/-- A presented word that is no command leaves the state of its fault. -/
theorem step_illegal_state {s : State} {w : Word} {c : FaultCode} (hpres : s.presents w) (herr : s.errc = none)
    (hd : decode w = .illegal c) :
    step s = .next { s with cmd := s.cmd.tail, turns := s.turns.tail, errc := some c, errw := w } := by
  rw [step_illegal hpres herr hd, State.acceptWord_raise_first c w herr]

/-- A presented `MOD` or `FLUSH` after the end leaves the state of `E_STOPPED` (60_exceptions.md R132). -/
theorem step_stopped_state {s : State} {w : Word} {i : Instr} (hpres : s.presents w) (herr : s.errc = none)
    (hd : decode w = .ok i) (hi : stoppable i = true) (hend : s.ended = true) :
    step s = .next { s with cmd := s.cmd.tail, turns := s.turns.tail, errc := some .stopped, errw := w } := by
  rw [step_command hpres herr hd (State.holds_of_ended i hend), exec_stopped (s := s.acceptWord) herr hi hend,
    encode_of_decode hd, State.acceptWord_raise_first .stopped w herr]

/-- The two commands of 60_exceptions.md R132, by the word that is presented. -/
theorem exists_stoppable_of_decode {w : Word} (h : (∃ dev, decode w = .ok (.mod dev)) ∨ decode w = .ok .flush) :
    ∃ i, decode w = .ok i ∧ stoppable i = true := by
  obtain ⟨dev, hd⟩ | hd := h
  · exact ⟨_, hd, rfl⟩
  · exact ⟨_, hd, rfl⟩

/-! ### Where a fault comes from -/

/-- A command leaves `ERRC` and `ERRW` alone, or is a `MOD` or `FLUSH` after the end (60_exceptions.md R132). -/
theorem exec_fault_cases {i : Instr} {s t : State} (h : exec i s = .next t) :
    (t.errc = s.errc ∧ t.errw = s.errw) ∨
      (stoppable i = true ∧ s.ended = true ∧ t = s.raise .stopped (encode i)) := by
  by_cases herr : s.errc = none
  case neg =>
    cases (exec_faulted i herr).symm.trans h
    exact .inl ⟨rfl, rfl⟩
  by_cases hstop : stoppable i = true ∧ s.ended = true
  · obtain ⟨hi, hend⟩ := hstop
    cases (exec_stopped herr hi hend).symm.trans h
    exact .inr ⟨hi, hend, rfl⟩
  left
  cases i with
  | mod dev =>
    obtain ⟨-, rfl⟩ | ⟨-, hend, -⟩ | ⟨-, -, -, rfl⟩ | ⟨-, -, -, -, rfl⟩ := execMod_cases h
    · exact ⟨rfl, rfl⟩
    · exact absurd ⟨rfl, hend⟩ hstop
    · exact ⟨rfl, rfl⟩
    · exact ⟨rfl, rfl⟩
  | ldkl v =>
    cases (exec_ldkl_running v herr).symm.trans h
    exact ⟨rfl, rfl⟩
  | ldkh v =>
    cases (exec_ldkh_running v herr).symm.trans h
    exact ⟨rfl, rfl⟩
  | clrph =>
    cases (exec_clrph_running herr).symm.trans h
    exact ⟨rfl, rfl⟩
  | flush =>
    have hend : s.ended = false := Bool.eq_false_iff.mpr fun hend => hstop ⟨rfl, hend⟩
    obtain ⟨heos, hsfail⟩ := s.ended_eq_false_iff.mp hend
    cases (exec_flush_running herr heos hsfail).symm.trans h
    exact ⟨rfl, rfl⟩

/-- What a turn comes from: nothing, a presented word, a requested operation, or the reset line. -/
theorem State.action_cases (s : State) :
    s.action = .idle ∨ (∃ w, s.presents w ∧ s.action = s.commandAction w) ∨
      (∃ op, s.requests op ∧ s.action = s.sinkAction op) ∨ s.action = .reset := by
  cases hturn : s.turns with
  | nil => exact .inl (by simp [State.action, hturn])
  | cons a ts =>
    cases a with
    | command =>
      cases hcmd : s.cmd with
      | nil => exact .inl (by simp [State.action, hturn, hcmd])
      | cons w ws =>
        have hpres : s.presents w := ⟨by simp [hturn], by simp [hcmd]⟩
        exact .inr (.inl ⟨w, hpres, hpres.action_eq⟩)
    | sink =>
      cases hsink : s.sink with
      | nil => exact .inl (by simp [State.action, hturn, hsink])
      | cons op ops =>
        have hreq : s.requests op := ⟨by simp [hturn], by simp [hsink]⟩
        exact .inr (.inr (.inl ⟨op, hreq, hreq.action_eq⟩))
    | reset => exact .inr (.inr (.inr (by simp [State.action, hturn])))

/-- The sink's turn is a read, acknowledged or not, or a release (43_sink_port.md R121 to R123). -/
theorem State.sinkAction_cases (s : State) (op : SinkOp) :
    (∃ slot, s.sinkAction op = .wait slot) ∨ (∃ slot, s.sinkAction op = .read slot) ∨
      ∃ ok, s.sinkAction op = .release ok := by
  cases op with
  | rd slot => rw [State.sinkAction]; split <;> simp
  | rel ok => simp [State.sinkAction]

/-- A step that faults has rejected the presented word, or stopped a `MOD` or `FLUSH` (60_exceptions.md R131). -/
theorem step_fault_cases {s t : State} {c : FaultCode} (h : step s = .next t) (herr : s.errc = none)
    (hc : t.errc = some c) :
    ∃ w, s.presents w ∧ t.errw = w ∧
      (decode w = .illegal c ∨ (c = .stopped ∧ ∃ i, decode w = .ok i ∧ stoppable i = true ∧ s.ended = true)) := by
  have unfaulted {u : State} (hu : u.errc = s.errc) : t ≠ u := by
    rintro rfl
    rw [hu, herr] at hc
    cases hc
  obtain ha | ⟨w, hpres, -⟩ | ⟨op, -, ha⟩ | ha := s.action_cases
  · rw [step, ha] at h
    cases h
    exact absurd rfl (unfaulted s.passTurn_errc)
  · refine ⟨w, hpres, ?_⟩
    cases hd : decode w with
    | illegal e =>
      cases (step_illegal_state hpres herr hd).symm.trans h
      cases hc
      exact ⟨rfl, .inl rfl⟩
    | ok i =>
      by_cases hh : s.holds i = true
      · cases (step_held hpres herr hd hh).symm.trans h
        exact absurd rfl (unfaulted s.passTurn_errc)
      · rw [step_command hpres herr hd (Bool.eq_false_iff.mpr hh)] at h
        obtain ⟨hsame, -⟩ | ⟨hi, hend, rfl⟩ := exec_fault_cases h
        · exact absurd rfl (unfaulted hsame)
        · rw [encode_of_decode hd, State.acceptWord_raise_first .stopped w herr] at hc ⊢
          cases hc
          exact ⟨rfl, .inr ⟨rfl, i, rfl, hi, hend⟩⟩
  · obtain ⟨slot, hs⟩ | ⟨slot, hs⟩ | ⟨ok, hs⟩ := s.sinkAction_cases op <;> rw [step, ha, hs] at h <;> cases h
    · exact absurd rfl (unfaulted s.passTurn_errc)
    · exact absurd rfl (unfaulted (State.reply_errc s.acceptSink slot))
    · exact absurd rfl (unfaulted (State.release_errc s.acceptSink ok))
  · rw [step, ha] at h
    cases h
    cases hc

end Sys2Proof.Machine
end

section
/-! SUPPORT. Fail-stop (60_exceptions.md R134): what a faulted block keeps, in one turn and along a run without a reset. -/

namespace Sys2Proof.Machine

/-- Two states agree in every element but `OWN` and `SFAIL`, which the sink may still change by its release
(60_exceptions.md R134). -/
structure State.SameButSinkFlags (s t : State) : Prop where
  errc : t.errc = s.errc
  errw : t.errw = s.errw
  acc : t.acc = s.acc
  kscale : t.kscale = s.kscale
  buf : t.buf = s.buf
  wrPtr : t.wrPtr = s.wrPtr
  vcnt : t.vcnt = s.vcnt
  eos : t.eos = s.eos

theorem State.SameElements.sameButSinkFlags {s t : State} (h : s.SameElements t) : s.SameButSinkFlags t :=
  ⟨h.errc, h.errw, h.acc, h.kscale, h.buf, h.wrPtr, h.vcnt, h.eos⟩

theorem State.sameButSinkFlags_refl (s : State) : s.SameButSinkFlags s := ⟨rfl, rfl, rfl, rfl, rfl, rfl, rfl, rfl⟩

theorem State.SameButSinkFlags.trans {s t u : State} (h : s.SameButSinkFlags t) (h' : t.SameButSinkFlags u) :
    s.SameButSinkFlags u where
  errc := h'.errc.trans h.errc
  errw := h'.errw.trans h.errw
  acc := h'.acc.trans h.acc
  kscale := h'.kscale.trans h.kscale
  buf := h'.buf.trans h.buf
  wrPtr := h'.wrPtr.trans h.wrPtr
  vcnt := h'.vcnt.trans h.vcnt
  eos := h'.eos.trans h.eos

/-- A release changes the sink's flags only (43_sink_port.md R123). -/
theorem State.sameButSinkFlags_release (s : State) (ok : Bool) : s.SameButSinkFlags (s.acceptSink.release ok) :=
  ⟨rfl, rfl, rfl, rfl, rfl, rfl, rfl, rfl⟩

/-- A read of a slot of the buffer the sink owns is acknowledged (43_sink_port.md R121). -/
theorem step_read {s : State} {slot : Count} (h : s.requests (.rd slot)) (hown : s.own = true)
    (hslot : slot.toNat < s.cfg.bufCap) : step s = .next (s.acceptSink.reply slot) := by
  have ha : s.action = .read slot := by simp [h.action_eq, State.sinkAction, hown, hslot]
  rw [step, ha]
  rfl

/-- A turn of a faulted block that is no reset has a next state and keeps everything but the sink's flags. -/
theorem step_faulted {s : State} (herr : s.errc ≠ none) (hreset : s.action ≠ .reset) :
    ∃ t, step s = .next t ∧ s.SameButSinkFlags t := by
  obtain ha | ⟨w, hpres, -⟩ | ⟨op, -, ha⟩ | ha := s.action_cases
  · exact ⟨_, by rw [step, ha], s.sameElements_passTurn.sameButSinkFlags⟩
  · exact ⟨_, step_discards hpres herr, s.sameElements_acceptWord.sameButSinkFlags⟩
  · obtain ⟨slot, hs⟩ | ⟨slot, hs⟩ | ⟨ok, hs⟩ := s.sinkAction_cases op
    · exact ⟨_, by rw [step, ha, hs], s.sameElements_passTurn.sameButSinkFlags⟩
    · exact ⟨_, by rw [step, ha, hs]; rfl, (s.sameElements_read slot).sameButSinkFlags⟩
    · exact ⟨_, by rw [step, ha, hs]; rfl, s.sameButSinkFlags_release ok⟩
  · exact absurd ha hreset

/-- A run of a faulted block without a reset goes on, and keeps everything but the sink's flags. -/
theorem runSteps_faulted (k : Nat) {s : State} (herr : s.errc ≠ none) (hreset : Action.reset ∉ actionsIn k s) :
    ∃ t, runSteps k s = .next t ∧ s.SameButSinkFlags t := by
  induction k generalizing s with
  | zero => exact ⟨s, rfl, s.sameButSinkFlags_refl⟩
  | succ k ih =>
    have hfirst : s.action ≠ .reset := fun ha => hreset (by simp [actionsIn, collect, ha])
    obtain ⟨t, hstep, hsame⟩ := step_faulted herr hfirst
    have hrest : Action.reset ∉ actionsIn k t := fun hmem =>
      hreset (by rw [actionsIn, collect_succ_next _ _ hstep]; exact List.mem_append_right _ hmem)
    obtain ⟨u, hrun, hsame'⟩ := ih (hsame.errc ▸ herr) hrest
    exact ⟨u, (runSteps_succ_next k hstep).trans hrun, hsame.trans hsame'⟩

end Sys2Proof.Machine
end

section
/-! CERTIFICATES. The faults (60_exceptions.md). -/

namespace Sys2Proof.Machine

/-- Settles O15: the fault of a stopped command, and the release that ends a hold after which the word is stopped. -/
theorem stoppedCommandsFault : Obligations.StoppedCommandsFault := by
  refine ⟨fun s i hi herr hend => ?stopped, fun s t i hi h => ?configuring,
    fun s w i rest hcmd hd hheld hturns hsink => ?released⟩
  case stopped =>
    exact ⟨_, exec_stopped herr ((stoppable_iff i).mpr hi) (s.ended_eq_true_iff.mpr hend), by simp [herr],
      by simp [herr], rfl, rfl, rfl, rfl, rfl⟩
  case configuring =>
    obtain hsame | ⟨hstop, -⟩ := exec_fault_cases h
    · exact hsame
    · obtain ⟨v, rfl⟩ | ⟨v, rfl⟩ | rfl := hi <;> cases hstop
  case released =>
    obtain ⟨herr, ⟨dev, rfl⟩, -, -, hown⟩ := (s.holds_iff i).mp hheld
    have hreq : s.requests (.rel false) := ⟨by simp [hturns], hsink⟩
    have hpres : (s.acceptSink.release false).presents w := ⟨by simp [hturns], hcmd⟩
    have hsfail : (s.acceptSink.release false).sfail = true := by simp [hown]
    have hend : (s.acceptSink.release false).ended = true := (State.ended_eq_true_iff _).mpr (.inr hsfail)
    exact ⟨_, (runSteps_succ_next 1 (step_release hreq)).trans
      (runSteps_succ_next 0 (step_stopped_state hpres herr hd rfl hend)), rfl, rfl, hsfail, rfl, rfl, rfl, rfl, rfl⟩

/-- Settles O25: where a fault comes from, with the decoder's two rejections read off the fields, and back. -/
theorem exactlyThreeFaults : Obligations.ExactlyThreeFaults := by
  refine ⟨⟨rfl, rfl, rfl, rfl, fun e => ?codes⟩, fun s t c h herr hc => ?only,
    fun s w hpres herr => ⟨?illop, ?rsvd, ?stopped⟩⟩
  case codes =>
    cases e with
    | none => decide
    | some c => cases c <;> decide
  case only =>
    obtain ⟨w, hpres, hw, hcause⟩ := step_fault_cases h herr hc
    refine ⟨w, hpres, hw, ?_⟩
    obtain hd | ⟨rfl, i, hd, hi, hend⟩ := hcause
    · exact (decode_illegal_cases hd).imp_right .inl
    · refine .inr (.inr ⟨rfl, ?_, s.ended_eq_true_iff.mp hend⟩)
      obtain ⟨dev, rfl⟩ | rfl := (stoppable_iff i).mp hi
      · exact .inl ⟨dev, hd⟩
      · exact .inr hd
  case illop => exact fun hop => ⟨_, step_illegal_state hpres herr (decode_of_hasNoOpcode hop), rfl, rfl⟩
  case rsvd => exact fun hres => ⟨_, step_illegal_state hpres herr (decode_of_breaksReserved hres), rfl, rfl⟩
  case stopped =>
    rintro ⟨hword, hend⟩
    obtain ⟨i, hd, hi⟩ := exists_stoppable_of_decode hword
    exact ⟨_, step_stopped_state hpres herr hd hi (s.ended_eq_true_iff.mpr hend), rfl, rfl⟩

/-- Settles O26: the fault action by whether a fault is recorded, and the step of a word that faults or is discarded. -/
theorem faultActionIsPrecise : Obligations.FaultActionIsPrecise := by
  refine ⟨fun s c w herr => ?first, fun s c w => State.raise_faulted c w, fun s w c => step_illegal_state,
    fun s w i hpres herr hd hi hend => ?stopped, fun s w => step_discards⟩
  case first =>
    rw [State.raise_first c w herr]
    exact ⟨rfl, rfl⟩
  case stopped =>
    exact step_stopped_state hpres herr hd ((stoppable_iff i).mpr hi) (s.ended_eq_true_iff.mpr hend)

/-- Settles O27: one faulted turn after the other, and the sink's own steps, which a fault does not touch. -/
theorem failStop : Obligations.FailStop := by
  refine ⟨fun s w => step_discards, fun k s herr hreset => ?run,
    fun s slot _ hreq hown hslot => ⟨_, step_read hreq hown hslot, rfl⟩,
    fun s ok _ hreq _ => ⟨_, step_release hreq, rfl, rfl⟩, fun s herr ⟨_, _, hnone, _⟩ => herr hnone⟩
  case run =>
    obtain ⟨t, hrun, hsame⟩ := runSteps_faulted k herr hreset
    exact ⟨t, hrun, hsame.errc, hsame.errw, hsame.acc, hsame.kscale, hsame.buf, hsame.wrPtr, hsame.vcnt, hsame.eos⟩

/-- Settles O28: the step of a presented word at each stage of the order of 60_exceptions.md R137. -/
theorem orderOfChecks : Obligations.OrderOfChecks := by
  refine ⟨fun s w => step_discards, fun s w hpres herr hop => ?illop, fun s w hpres herr hlo hhi hne => ?rsvd,
    fun s w hpres herr hword hend => ?stopped, fun s w i hpres herr hd _ => step_command hpres herr hd,
    fun s herr heos => ⟨fun hpres => ?wordIllop, fun hpres => ?wordRsvd, fun hpres => ?wordStopped⟩,
    fun s w i _ _ hheld => ?held⟩
  case illop => exact step_illegal_state hpres herr (decode_of_hasNoOpcode hop)
  case rsvd => exact step_illegal_state hpres herr (decode_of_breaksReserved ⟨hlo, hhi, hne⟩)
  case stopped =>
    obtain ⟨i, hd, hi⟩ := exists_stoppable_of_decode hword
    exact step_stopped_state hpres herr hd hi (s.ended_eq_true_iff.mpr hend)
  case wordIllop => exact ⟨_, step_illegal_state hpres herr (by decide), rfl⟩
  case wordRsvd => exact ⟨_, step_illegal_state hpres herr (by decide), rfl⟩
  case wordStopped =>
    have hd : decode 0x10000000 = .ok (.mod 0) := by decide
    exact ⟨_, step_stopped_state hpres herr hd rfl (s.ended_eq_true_iff.mpr (.inl heos)), rfl⟩
  case held =>
    obtain ⟨herr, hmod, heos, hsfail, -⟩ := (s.holds_iff i).mp hheld
    exact ⟨herr, hmod, heos, hsfail⟩

end Sys2Proof.Machine
end

section
/-! SUPPORT. The actions of a run, turn by turn, and what a hold keeps until a release or a reset
(70_reset_and_hazards.md R157, R164). -/

namespace Sys2Proof.Machine

/-- The first turn of a run counts whatever it leads to. -/
theorem action_mem_actionsIn (k : Nat) (s : State) : s.action ∈ actionsIn (k + 1) s := by simp [actionsIn, collect]

theorem actionsIn_succ_next (k : Nat) {s t : State} (h : step s = .next t) :
    actionsIn (k + 1) s = s.action :: actionsIn k t := by
  rw [actionsIn, collect_succ_next _ _ h]
  rfl

theorem State.sameElements_refl (s : State) : s.SameElements s := ⟨rfl, rfl, rfl, rfl, rfl, rfl, rfl, rfl, rfl, rfl⟩

/-- A turn without an enabled step passes (30_encoding.md R66, 43_sink_port.md R122). -/
theorem step_not_enabled {s : State} (h : s.action = .idle ∨ (∃ i, s.action = .held i) ∨ ∃ slot, s.action = .wait slot) :
    step s = .next s.passTurn := by
  obtain ha | ⟨i, ha⟩ | ⟨slot, ha⟩ := h <;> rw [step, ha]

/-- What is held is a `MOD` of an unfaulted block whose buffer is the sink's (30_encoding.md R66). -/
theorem State.headHeld.waiting {s : State} (h : s.headHeld) : s.cmd ≠ [] ∧ s.errc = none ∧ s.own = true := by
  obtain ⟨w, i, hw, -, hh⟩ := h
  obtain ⟨herr, -, -, -, hown⟩ := (s.holds_iff i).mp hh
  exact ⟨fun hnil => by simp [hnil] at hw, herr, hown⟩

/-- A turn under a hold that is neither a release nor a reset passes or answers a read, and keeps every word and every
element (70_reset_and_hazards.md R157). -/
theorem State.headHeld.step_keeps {s : State} (h : s.headHeld) (hreset : s.action ≠ .reset)
    (hrel : ∀ ok, s.action ≠ .release ok) : ∃ t, step s = .next t ∧ t.cmd = s.cmd ∧ s.SameElements t := by
  obtain hpass | ⟨slot, ha⟩ | ⟨ok, ha⟩ | ha := h.action_cases
  · exact ⟨_, step_not_enabled hpass, s.passTurn_cmd, s.sameElements_passTurn⟩
  · exact ⟨_, by rw [step, ha]; rfl, State.reply_cmd s.acceptSink slot, s.sameElements_read slot⟩
  · exact absurd ha (hrel ok)
  · exact absurd ha hreset

/-- A run under a hold without a release or a reset keeps every word and every element. -/
theorem State.headHeld.runSteps_keeps {s : State} (h : s.headHeld) (k : Nat) (hreset : Action.reset ∉ actionsIn k s)
    (hrel : ∀ ok, Action.release ok ∉ actionsIn k s) :
    ∃ t, runSteps k s = .next t ∧ t.cmd = s.cmd ∧ s.SameElements t := by
  induction k generalizing s with
  | zero => exact ⟨s, rfl, rfl, s.sameElements_refl⟩
  | succ k ih =>
    have hfirst : ∀ {a}, a ∉ actionsIn (k + 1) s → s.action ≠ a := fun hmem ha => hmem (ha ▸ action_mem_actionsIn k s)
    obtain ⟨t, hstep, hcmd, hsame⟩ := h.step_keeps (hfirst hreset) fun ok => hfirst (hrel ok)
    have hrest : ∀ {a}, a ∉ actionsIn (k + 1) s → a ∉ actionsIn k t := fun hmem ha =>
      hmem (actionsIn_succ_next k hstep ▸ List.mem_cons_of_mem _ ha)
    obtain ⟨u, hrun, hcmd', hsame'⟩ := ih (h.congr hcmd hsame) (hrest hreset) fun ok => hrest (hrel ok)
    exact ⟨u, (runSteps_succ_next k hstep).trans hrun, hcmd'.trans hcmd, hsame.trans hsame'⟩

/-- The sink takes no step in the next turn of a stuck state, also when no turn is left. -/
theorem State.stuck.action_not_bySink {s : State} (h : s.stuck) : s.action.bySink = false := by
  obtain ⟨-, hsink⟩ := h
  cases hturn : s.turns with
  | nil => simp [State.action, hturn, Action.bySink]
  | cons a ts =>
    rw [hturn] at hsink
    exact hsink _ (action_mem_actionsIn ts.length s)

/-- A turn of a stuck state that is no reset passes. -/
theorem State.stuck.step_passes {s : State} (h : s.stuck) (hreset : s.action ≠ .reset) :
    step s = .next s.passTurn := by
  have hsink := h.action_not_bySink
  obtain ⟨hheld, -⟩ := h
  obtain hpass | ⟨slot, ha⟩ | ⟨ok, ha⟩ | ha := hheld.action_cases
  · exact step_not_enabled hpass
  · simp [ha, Action.bySink] at hsink
  · simp [ha, Action.bySink] at hsink
  · exact absurd ha hreset

/-- Passing the turn leaves a stuck state stuck. -/
theorem State.stuck.passTurn_stuck {s : State} (h : s.stuck) (hstep : step s = .next s.passTurn) : s.passTurn.stuck := by
  obtain ⟨hheld, hsink⟩ := h
  refine ⟨hheld.congr rfl s.sameElements_passTurn, fun a ha => ?_⟩
  cases hturn : s.turns with
  | nil => simp [hturn, actionsIn] at ha
  | cons b ts =>
    rw [State.passTurn_turns, hturn, List.tail_cons] at ha
    rw [hturn, List.length_cons, actionsIn_succ_next _ hstep] at hsink
    exact hsink a (List.mem_cons_of_mem _ ha)

/-- A stuck state only passes its turns until a reset comes (70_reset_and_hazards.md R164). -/
theorem State.stuck.runSteps_passes {s : State} (h : s.stuck) (k : Nat) (hreset : Action.reset ∉ actionsIn k s) :
    runSteps k s = .next { s with turns := s.turns.drop k } ∧ ({ s with turns := s.turns.drop k } : State).stuck := by
  induction k generalizing s with
  | zero => exact ⟨rfl, h⟩
  | succ k ih =>
    have hstep := h.step_passes fun ha => hreset (ha ▸ action_mem_actionsIn k s)
    rw [actionsIn_succ_next k hstep] at hreset
    rw [runSteps_succ_next k hstep, ← List.drop_tail]
    exact ih (h.passTurn_stuck hstep) (List.not_mem_of_not_mem_cons hreset)

end Sys2Proof.Machine
end

section
/-! CERTIFICATES. The hazards (70_reset_and_hazards.md). -/

namespace Sys2Proof.Machine

/-- Settles O49: a run under a hold, a run of a stuck state, and the words a stuck state still presents. -/
theorem heldModWaitsForEver : Obligations.HeldModWaitsForEver := by
  refine ⟨fun k s h hreset hrel => ?held, fun k s h => h.runSteps_passes k,
    fun s ⟨hheld, _⟩ ⟨hcmd, _⟩ => ?notFinal⟩
  case held =>
    obtain ⟨-, herr, hown⟩ := h.waiting
    obtain ⟨t, hrun, hcmd, hsame⟩ := h.runSteps_keeps k hreset hrel
    exact ⟨t, hrun, h.congr hcmd hsame, hcmd, hsame.acc, hsame.kscale, hsame.buf, hsame.wrPtr, hsame.vcnt,
      hsame.own.trans hown, hsame.errc.trans herr⟩
  case notFinal =>
    obtain ⟨hword, -⟩ := hheld.waiting
    exact hword hcmd

end Sys2Proof.Machine
end

section
/-! SUPPORT. A turn with a next state as one of its twelve kinds, each with the conditions under which it comes
(00_scope.md R10, 30_encoding.md R66, 43_sink_port.md R121 to R123): the inversion of `step`. -/

namespace Sys2Proof.Machine

/-- Whether a turn takes a word from the command port: discarded, rejected or accepted as a command. -/
def Action.takesWord : Action → Bool
  | .discard _ | .illegal _ _ | .command _ => true
  | .idle | .held _ | .wait _ | .read _ | .release _ | .reset => false

/-- A turn that takes a word is the command agent's. -/
theorem State.presented_of_takesWord {s : State} (h : s.action.takesWord = true) :
    ∃ w, s.presents w ∧ s.commandAction w = s.action := by
  obtain ha | ⟨w, hpres, ha⟩ | ⟨op, -, ha⟩ | ha := s.action_cases
  · rw [ha] at h; cases h
  · exact ⟨w, hpres, ha.symm⟩
  · obtain ⟨slot, hs⟩ | ⟨slot, hs⟩ | ⟨ok, hs⟩ := s.sinkAction_cases op <;> rw [ha, hs] at h <;> cases h
  · rw [ha] at h; cases h

/-- An accepted command comes from a presented word of an unfaulted block and is not held (30_encoding.md R66). -/
theorem State.presented_of_command {s : State} {i : Instr} (h : s.action = .command i) :
    ∃ w, s.presents w ∧ s.errc = none ∧ decode w = .ok i ∧ s.holds i = false := by
  obtain ⟨w, hpres, ha⟩ := State.presented_of_takesWord (s := s) (by rw [h]; rfl)
  rw [h] at ha
  obtain ⟨-, hc⟩ | ⟨-, c, -, hc⟩ | ⟨-, j, -, -, hc⟩ | ⟨hf, j, hd, hh, hc⟩ := s.commandAction_cases w <;>
    cases ha.symm.trans hc
  exact ⟨w, hpres, s.faulted_eq_false_iff.mp hf, hd, hh⟩

/-- A rejected word is presented to an unfaulted block (30_encoding.md R65). -/
theorem State.presented_of_illegal {s : State} {c : FaultCode} {w : Word} (h : s.action = .illegal c w) :
    s.presents w ∧ s.errc = none ∧ decode w = .illegal c := by
  obtain ⟨v, hpres, ha⟩ := State.presented_of_takesWord (s := s) (by rw [h]; rfl)
  rw [h] at ha
  obtain ⟨-, hc⟩ | ⟨hf, d, hd, hc⟩ | ⟨-, j, -, -, hc⟩ | ⟨-, j, -, -, hc⟩ := s.commandAction_cases v <;>
    cases ha.symm.trans hc
  exact ⟨hpres, s.faulted_eq_false_iff.mp hf, hd⟩

/-- A word is discarded by a faulted block only (60_exceptions.md R134). -/
theorem State.presented_of_discard {s : State} {w : Word} (h : s.action = .discard w) :
    s.presents w ∧ s.errc ≠ none := by
  obtain ⟨v, hpres, ha⟩ := State.presented_of_takesWord (s := s) (by rw [h]; rfl)
  rw [h] at ha
  obtain ⟨hf, hc⟩ | ⟨-, c, -, hc⟩ | ⟨-, j, -, -, hc⟩ | ⟨-, j, -, -, hc⟩ := s.commandAction_cases v <;>
    cases ha.symm.trans hc
  exact ⟨hpres, Option.isSome_iff_ne_none.mp hf⟩

/-- A turn that performs an operation of the sink is the sink agent's. -/
theorem State.requested_of_bySink {s : State} (h : s.action.bySink = true) :
    ∃ op, s.requests op ∧ s.sinkAction op = s.action := by
  obtain ha | ⟨w, -, ha⟩ | ⟨op, hreq, ha⟩ | ha := s.action_cases
  · rw [ha] at h; cases h
  · obtain ⟨-, hc⟩ | ⟨-, c, -, hc⟩ | ⟨-, j, -, -, hc⟩ | ⟨-, j, -, -, hc⟩ := s.commandAction_cases w <;>
      rw [ha, hc] at h <;> cases h
  · exact ⟨op, hreq, ha.symm⟩
  · rw [ha] at h; cases h

/-- A read is acknowledged only while the sink owns the buffer, and only of a slot of it (43_sink_port.md R121). -/
theorem State.requested_of_read {s : State} {slot : Count} (h : s.action = .read slot) :
    s.requests (.rd slot) ∧ s.own = true ∧ slot.toNat < s.cfg.bufCap := by
  obtain ⟨op, hreq, ha⟩ := State.requested_of_bySink (s := s) (by rw [h]; rfl)
  rw [h] at ha
  cases op with
  | rd k =>
    rw [State.sinkAction] at ha
    split at ha
    · next henabled =>
      cases ha
      rw [Bool.and_eq_true, decide_eq_true_eq] at henabled
      exact ⟨hreq, henabled⟩
    · cases ha
  | rel ok => cases ha

/-- A release is the sink's (43_sink_port.md R123). -/
theorem State.requested_of_release {s : State} {ok : Bool} (h : s.action = .release ok) : s.requests (.rel ok) := by
  obtain ⟨op, hreq, ha⟩ := State.requested_of_bySink (s := s) (by rw [h]; rfl)
  rw [h] at ha
  cases op with
  | rd k =>
    rw [State.sinkAction] at ha
    split at ha <;> cases ha
  | rel ok' =>
    cases ha
    exact hreq

/-- The kinds of turn and the states they lead to. -/
inductive State.Turn (s : State) : State → Prop where
  /-- No agent has an enabled step. -/
  | passes (h : s.action = .idle ∨ (∃ i, s.action = .held i) ∨ ∃ slot, s.action = .wait slot) : s.Turn s.passTurn
  /-- A faulted block discards a word. -/
  | discards {w : Word} (h : s.action = .discard w) (hpres : s.presents w) (herr : s.errc ≠ none) : s.Turn s.acceptWord
  /-- A word that is no command faults. -/
  | rejects {c : FaultCode} {w : Word} (h : s.action = .illegal c w) (hpres : s.presents w) (herr : s.errc = none)
      (hd : decode w = .illegal c) : s.Turn (s.acceptWord.raise c w)
  /-- A `MOD` or `FLUSH` after the end faults. -/
  | stops {i : Instr} (h : s.action = .command i) (herr : s.errc = none) (hi : stoppable i = true)
      (hend : s.ended = true) : s.Turn (s.acceptWord.raise .stopped (encode i))
  /-- A `MOD` writes a sample. -/
  | samples {dev : Int} (h : s.action = .command (.mod dev)) (herr : s.errc = none) (hend : s.ended = false)
      (hown : s.own = false) (hptr : s.wrPtr.toNat < s.cfg.bufCap) : s.Turn (s.acceptWord.modulate dev)
  /-- An `LDKL` loads the low half of `KSCALE`. -/
  | loadsLow {v : Half} (h : s.action = .command (.ldkl v)) (herr : s.errc = none) :
      s.Turn (s.acceptWord.setScale (withLowHalf s.kscale v))
  /-- An `LDKH` loads the high half of `KSCALE`. -/
  | loadsHigh {v : Half} (h : s.action = .command (.ldkh v)) (herr : s.errc = none) :
      s.Turn (s.acceptWord.setScale (withHighHalf s.kscale v))
  /-- A `CLRPH` clears the phase. -/
  | clears (h : s.action = .command .clrph) (herr : s.errc = none) : s.Turn (s.acceptWord.setPhase 0)
  /-- A `FLUSH` ends the stream. -/
  | ends (h : s.action = .command .flush) (herr : s.errc = none) (hend : s.ended = false) : s.Turn s.acceptWord.endStream
  /-- The sink's read is answered. -/
  | reads {slot : Count} (h : s.action = .read slot) (hreq : s.requests (.rd slot)) (hown : s.own = true)
      (hslot : slot.toNat < s.cfg.bufCap) : s.Turn (s.acceptSink.reply slot)
  /-- The sink gives the buffer back. -/
  | releases {ok : Bool} (h : s.action = .release ok) (hreq : s.requests (.rel ok)) :
      s.Turn (s.acceptSink.release ok)
  /-- The reset event. -/
  | resets (h : s.action = .reset) : s.Turn s.passTurn.resetEvent

/-- The turn of an accepted command, by the command. -/
theorem State.turn_of_command {s t : State} {i : Instr} (ha : s.action = .command i)
    (h : exec i s.acceptWord = .next t) : s.Turn t := by
  obtain ⟨w, -, herr, -, hh⟩ := State.presented_of_command ha
  by_cases hstop : stoppable i = true ∧ s.ended = true
  · obtain ⟨hi, hend⟩ := hstop
    cases (exec_stopped (s := s.acceptWord) herr hi hend).symm.trans h
    exact .stops ha herr hi hend
  have running (hi : stoppable i = true) : s.ended = false := Bool.eq_false_iff.mpr fun hend => hstop ⟨hi, hend⟩
  cases i with
  | mod dev =>
    have hend := running rfl
    obtain ⟨heos, hsfail⟩ := s.ended_eq_false_iff.mp hend
    obtain ⟨hf, -⟩ | ⟨-, he, -⟩ | ⟨-, -, hown, -⟩ | ⟨-, -, hown, hptr, rfl⟩ := execMod_cases h
    · exact absurd herr (Option.isSome_iff_ne_none.mp hf)
    · exact absurd (hend.symm.trans he) Bool.false_ne_true
    · exact absurd (hh.symm.trans ((s.holds_iff _).mpr ⟨herr, ⟨dev, rfl⟩, heos, hsfail, hown⟩)) Bool.false_ne_true
    · exact .samples ha herr hend hown hptr
  | ldkl v =>
    cases (exec_ldkl_running (s := s.acceptWord) v herr).symm.trans h
    exact .loadsLow ha herr
  | ldkh v =>
    cases (exec_ldkh_running (s := s.acceptWord) v herr).symm.trans h
    exact .loadsHigh ha herr
  | clrph =>
    cases (exec_clrph_running (s := s.acceptWord) herr).symm.trans h
    exact .clears ha herr
  | flush =>
    have hend := running rfl
    obtain ⟨heos, hsfail⟩ := s.ended_eq_false_iff.mp hend
    cases (exec_flush_running (s := s.acceptWord) herr heos hsfail).symm.trans h
    exact .ends ha herr hend

/-- A step with a next state is one of the kinds of turn. -/
theorem step_turn {s t : State} (h : step s = .next t) : s.Turn t := by
  obtain ⟨ha, rfl⟩ | ⟨⟨w, ha⟩, rfl⟩ | ⟨c, w, ha, rfl⟩ | ⟨i, ha, hexec⟩ | ⟨slot, ha, rfl⟩ | ⟨ok, ha, rfl⟩ | ⟨ha, rfl⟩ :=
    step_cases h
  · exact .passes ha
  · obtain ⟨hpres, herr⟩ := State.presented_of_discard ha
    exact .discards ha hpres herr
  · obtain ⟨hpres, herr, hd⟩ := State.presented_of_illegal ha
    exact .rejects ha hpres herr hd
  · exact State.turn_of_command ha hexec
  · obtain ⟨hreq, hown, hslot⟩ := State.requested_of_read ha
    exact .reads ha hreq hown hslot
  · exact .releases ha (State.requested_of_release ha)
  · exact .resets ha

end Sys2Proof.Machine
end

section
/-! SUPPORT. The invariants of 10_state.md R34 under each effect: what they depend on, the effects that leave that alone, a
sample, the end of the stream, a release and the reset event. -/

namespace Sys2Proof.Machine

/-! ### The pointer and the owner -/

/-- The pointer is zero when its number is. -/
theorem toNat_ne_zero {p : Count} : p.toNat ≠ 0 ↔ p ≠ 0 := by
  simp [← BitVec.toNat_inj]

/-- A legal buffer has at least one slot, and its size fits in the count's 24 bits (00_scope.md R7). -/
theorem Config.bufCap_bounds {c : Config} (h : c.capOk = true) : 1 ≤ c.bufCap ∧ c.bufCap < 2 ^ 24 := by
  simp only [Config.capOk, Bool.and_eq_true, decide_eq_true_eq] at h
  omega

theorem State.Inv.capOk {s : State} (h : s.Inv) : s.cfg.capOk = true := by
  obtain ⟨-, hcap, -⟩ := s.cfg.wf_iff.mp h.config
  exact hcap

/-- While a fill is in progress the buffer is the command agent's (10_state.md R34 I3). -/
theorem State.Inv.not_own_of_fill {s : State} (h : s.Inv) (hw : s.wrPtr ≠ 0) : s.own = false :=
  Bool.eq_false_iff.mpr fun hown => hw (h.owned_pointer hown)

/-! ### The effects, one by one -/

/-- The invariants depend on seven fields. -/
theorem State.Inv.congr {s t : State} (h : s.Inv) (hcfg : t.cfg = s.cfg) (hbuf : t.buf = s.buf)
    (hptr : t.wrPtr = s.wrPtr) (hcnt : t.vcnt = s.vcnt) (hown : t.own = s.own) (heos : t.eos = s.eos) : t.Inv where
  config := hcfg ▸ h.config
  memory := hbuf ▸ h.memory
  inside := by rw [hbuf, hcfg]; exact h.inside
  pointer := by rw [hptr, hcfg]; exact h.pointer
  count := by rw [hcnt, hcfg]; exact h.count
  owned_pointer := by rw [hown, hptr]; exact h.owned_pointer
  owned_count := by rw [hown, hcnt]; exact h.owned_count
  owned_samples := by rw [hown, hcnt, hbuf, hcfg]; exact h.owned_samples
  owned_padding := by rw [hown, hcnt, hbuf, hcfg]; exact h.owned_padding
  filled := by rw [hown, hptr, hbuf, hcfg]; exact h.filled
  halves := hbuf ▸ h.halves
  ended_empty := by rw [heos, hown, hptr]; exact h.ended_empty

/-- The invariants after the reset event (70_reset_and_hazards.md R150). -/
theorem State.inv_resetEvent {s : State} (hcfg : s.cfg.wf = true) : s.resetEvent.Inv where
  config := hcfg
  memory := rfl
  inside := fun _ h => absurd rfl h
  pointer := by
    obtain ⟨-, hcap, -⟩ := s.cfg.wf_iff.mp hcfg
    exact (Config.bufCap_bounds hcap).1
  count := Nat.zero_le _
  owned_pointer := fun _ => rfl
  owned_count := fun h => absurd h Bool.false_ne_true
  owned_samples := fun h => absurd h Bool.false_ne_true
  owned_padding := fun h => absurd h Bool.false_ne_true
  filled := fun _ _ hk => absurd hk (Nat.not_lt_zero _)
  halves := fun _ _ h => by cases h
  ended_empty := fun _ _ => rfl

/-- The invariants after a release: a buffer that comes back holds no fill (43_sink_port.md R123). -/
theorem State.Inv.release {s : State} (h : s.Inv) (ok : Bool) : (s.release ok).Inv where
  config := h.config
  memory := h.memory
  inside := h.inside
  pointer := h.pointer
  count := h.count
  owned_pointer := fun hown => absurd hown Bool.false_ne_true
  owned_count := fun hown => absurd hown Bool.false_ne_true
  owned_samples := fun hown => absurd hown Bool.false_ne_true
  owned_padding := fun hown => absurd hown Bool.false_ne_true
  filled := fun _ k hk => h.filled (h.not_own_of_fill (toNat_ne_zero.mp (Nat.ne_zero_of_lt hk))) k hk
  halves := h.halves
  ended_empty := fun heos _ => by
    by_contra hw
    exact hw (h.ended_empty heos (h.not_own_of_fill hw))

/-- The slots below the pointer after a sample hold samples. -/
theorem State.modulate_filled {s : State} (h : s.Inv) (hown : s.own = false) (dev : Int) {k : Nat}
    (hk : k < s.wrPtr.toNat + 1) : ∃ v, (s.modulate dev).buf.slot k = some v ∧ isSample s.cfg v := by
  obtain hlt | rfl := Nat.lt_succ_iff_lt_or_eq.mp hk
  · rw [State.modulate_buf, Memory.slot_writeSlot_other _ _ hlt.ne]
    exact h.filled hown k hlt
  · exact ⟨_, s.modulate_slot dev, _, rfl⟩

/-- After a sample no half of a slot is the extreme value (10_state.md R34 I6). -/
theorem State.Inv.modulate_halves {s : State} (h : s.Inv) (dev : Int) {k : Nat} {v : Word}
    (hv : (s.modulate dev).buf.slot k = some v) : halvesLegal v := by
  by_cases hk : k = s.wrPtr.toNat
  · subst hk
    rw [s.modulate_slot dev] at hv
    cases hv
    exact samplePair_halvesLegal h.config _
  · rw [State.modulate_buf, Memory.slot_writeSlot_other _ _ hk] at hv
    exact h.halves k v hv

/-- A sample writes inside the buffer. -/
theorem State.Inv.modulate_inside {s : State} (h : s.Inv) (dev : Int) {a : Nat}
    (ha : (s.modulate dev).buf.read a ≠ none) : a < 4 * s.cfg.bufCap := by
  have hptr := h.pointer
  by_cases hout : a < 4 * s.wrPtr.toNat ∨ 4 * s.wrPtr.toNat + 4 ≤ a
  · rw [State.modulate_buf, Memory.read_writeSlot_outside _ _ _ hout] at ha
    exact h.inside a ha
  · omega

/-- The invariants after a sample, in the last slot or before it (40_modulate.md R84). -/
theorem State.Inv.modulate {s : State} (h : s.Inv) (hown : s.own = false) (heos : s.eos = false) (dev : Int) :
    (s.modulate dev).Inv := by
  have hptr := h.pointer
  have hcap := Config.bufCap_bounds h.capOk
  have config : (s.modulate dev).cfg.wf = true := h.config
  have memory : (s.modulate dev).buf.wf = true := Memory.wf_writeSlot _ _ _ h.memory
  have inside : ∀ a, (s.modulate dev).buf.read a ≠ none → a < 4 * s.cfg.bufCap := fun _ => h.modulate_inside dev
  have halves : ∀ k v, (s.modulate dev).buf.slot k = some v → halvesLegal v := fun _ _ => h.modulate_halves dev
  have running : (s.modulate dev).eos = true → (s.modulate dev).own = false → (s.modulate dev).wrPtr = 0 :=
    fun hend => absurd (heos.symm.trans hend) Bool.false_ne_true
  obtain hinner | hlast := Nat.lt_or_eq_of_le (Nat.succ_le_of_lt hptr)
  · obtain ⟨hcnt, hmoved, hfree⟩ := State.modulate_innerSlot dev h.capOk hown hinner
    have free {P : Prop} : (s.modulate dev).own = true → P :=
      fun hover => absurd (hfree.symm.trans hover) Bool.false_ne_true
    exact {
      config, memory, inside, halves
      pointer := hmoved ▸ hinner
      count := hcnt ▸ h.count
      owned_pointer := free
      owned_count := free
      owned_samples := free
      owned_padding := free
      filled := fun _ k hk => State.modulate_filled h hown dev (hmoved ▸ hk)
      ended_empty := running }
  · obtain ⟨hcnt, hzero, hover⟩ := State.modulate_lastSlot dev h.capOk hlast
    exact {
      config, memory, inside, halves
      pointer := by rw [hzero]; exact hcap.1
      count := hcnt.le
      owned_pointer := fun _ => hzero
      owned_count := fun _ => hcnt.symm ▸ hcap.1
      owned_samples := fun _ k hk => State.modulate_filled h hown dev (by omega)
      owned_padding := fun _ k hle hlt => absurd (hcnt ▸ hle) (Nat.not_le_of_lt hlt)
      filled := fun hfree => absurd (hfree.symm.trans hover) Bool.false_ne_true
      ended_empty := running }

/-- The padding writes inside the buffer. -/
theorem State.Inv.endStream_inside {s : State} (h : s.Inv) {a : Nat} (ha : s.endStream.buf.read a ≠ none) :
    a < 4 * s.cfg.bufCap := by
  by_cases hout : 4 * s.wrPtr.toNat ≤ a ∧ a < 4 * s.cfg.bufCap
  · exact hout.2
  · rw [State.endStream_read_outside s hout] at ha
    exact h.inside a ha

/-- The end of the stream leaves the slots below the pointer alone. -/
theorem State.endStream_slot_below (s : State) {k : Nat} (hk : k < s.wrPtr.toNat ∨ s.cfg.bufCap ≤ k) :
    s.endStream.buf.slot k = s.buf.slot k :=
  Memory.slot_congr fun _ _ _ => s.endStream_read_outside (by omega)

/-- The padding has no half that is the extreme value. -/
theorem State.Inv.endStream_halves {s : State} (h : s.Inv) (hw : s.wrPtr ≠ 0) {k : Nat} {v : Word}
    (hv : s.endStream.buf.slot k = some v) : halvesLegal v := by
  by_cases hin : s.wrPtr.toNat ≤ k ∧ k < s.cfg.bufCap
  · rw [State.endStream_slot_padding hw hin.1 hin.2] at hv
    cases hv
    exact ⟨by decide, by decide⟩
  · rw [State.endStream_slot_below s (by omega)] at hv
    exact h.halves k v hv

/-- The invariants after the end of the stream, with an empty fill or one in progress (42_stream_control.md R111). -/
theorem State.Inv.endStream {s : State} (h : s.Inv) : s.endStream.Inv := by
  by_cases hw : s.wrPtr = 0
  · rw [State.endStream_of_empty hw]
    exact { h with ended_empty := fun _ _ => hw }
  · have hcnt : s.endStream.vcnt = s.wrPtr := by rw [State.endStream_of_partial hw]
    have hover : s.endStream.own = true := by rw [State.endStream_of_partial hw]
    have free {P : Prop} : s.endStream.own = false → P :=
      fun hfree => absurd (hfree.symm.trans hover) Bool.false_ne_true
    have hptr := h.pointer
    exact {
      config := h.config
      memory := by
        rw [State.endStream_buf, if_pos (decide_eq_true (toNat_ne_zero.mpr hw))]
        exact Memory.wf_zeroSlots _ _ _ h.memory
      inside := fun _ => h.endStream_inside
      pointer := (Config.bufCap_bounds h.capOk).1
      count := hcnt ▸ hptr.le
      owned_pointer := fun _ => rfl
      owned_count := fun _ => by
        rw [hcnt]
        exact Nat.one_le_iff_ne_zero.mpr (toNat_ne_zero.mpr hw)
      owned_samples := fun _ k hk => by
        rw [hcnt] at hk
        rw [State.endStream_slot_below s (.inl hk)]
        exact h.filled (h.not_own_of_fill hw) k hk
      owned_padding := fun _ k hle hlt => by
        rw [hcnt] at hle
        exact State.endStream_slot_padding hw hle hlt
      filled := free
      halves := fun _ _ => h.endStream_halves hw
      ended_empty := fun _ _ => rfl }

/-- The invariants after each kind of turn (10_state.md section 6). -/
theorem State.Inv.turn {s t : State} (h : s.Inv) (hturn : s.Turn t) : t.Inv := by
  cases hturn with
  | samples _ _ hend hown _ =>
    obtain ⟨heos, -⟩ := s.ended_eq_false_iff.mp hend
    exact State.Inv.modulate (s := s.acceptWord) (h.congr rfl rfl rfl rfl rfl rfl) hown heos _
  | ends => exact State.Inv.endStream (s := s.acceptWord) (h.congr rfl rfl rfl rfl rfl rfl)
  | releases => exact State.Inv.release (s := s.acceptSink) (h.congr rfl rfl rfl rfl rfl rfl) _
  | resets => exact State.inv_resetEvent h.config
  | passes | discards | rejects | stops | loadsLow | loadsHigh | clears | reads => exact h.congr rfl rfl rfl rfl rfl rfl

end Sys2Proof.Machine
end

section
/-! CERTIFICATES. The invariants (10_state.md section 6). -/

namespace Sys2Proof.Machine

/-- Settles O39: the invariants under the effect of each kind of turn. -/
theorem invariantKept : Obligations.InvariantKept := fun _ _ h hstep => h.turn (step_turn hstep)

/-- Settles O40: the reset state is one the reset event gives, with the printed table as a legal one. -/
theorem resetMeetsInvariant : Obligations.ResetMeetsInvariant := by
  have hcfg : State.reset.cfg.wf = true := by decide +kernel
  exact ⟨(State.inv_resetEvent hcfg).congr rfl rfl rfl rfl rfl rfl, fun s => State.inv_resetEvent⟩

end Sys2Proof.Machine
end

section
/-! SUPPORT. Words as numbers: the word of a command as a row's match with its immediate, and the numbers behind the
listings (30_encoding.md R68, R69, 20_memory.md R43). -/

namespace Sys2Proof

/-- What a word decodes to has an encoding (30_encoding.md R63). -/
theorem wf_of_decode {w : Word} {i : Instr} (h : decode w = .ok i) : i.wf = true := by
  obtain ⟨-, hi⟩ := matchesRow_of_decode h
  cases hk : opcodeOfInstr i with
  | mod =>
    rw [hi, hk, withImm, Instr.wf, Bool.and_eq_true, decide_eq_true_eq, decide_eq_true_eq]
    have hlo := (immField w).le_toInt
    have hhi := (immField w).toInt_le
    omega
  | ldkl | ldkh | clrph | flush => rw [hi, hk]; rfl

/-- The word of a command is its row's match with the immediate in the low half. -/
theorem encode_eq_or (i : Instr) : encode i = (opcodeRow (opcodeOfInstr i)).1 ||| (immOfInstr i).setWidth 32 := by
  have himm : (immOfInstr i).setWidth 32 = (0 : BitVec 16) ++ immOfInstr i :=
    BitVec.setWidth_eq_append (by omega)
  rw [opcodeRow_match, himm]
  have hzero : (0 : BitVec 16) = (0 : BitVec 4) ++ (0 : BitVec 12) := by decide
  rw [hzero, BitVec.or_append, BitVec.or_append, encode]
  simp

/-- A signed half, widened, is the number modulo 2^16 (30_encoding.md R68). -/
theorem setWidth_ofInt (d : Int) : (BitVec.ofInt 16 d).setWidth 32 = BitVec.ofInt 32 (d % 65536) := by
  apply BitVec.eq_of_toNat_eq
  rw [BitVec.toNat_setWidth, BitVec.toNat_ofInt, BitVec.toNat_ofInt]
  omega

/-- An unsigned half, widened. -/
theorem setWidth_ofNat {v : Nat} (h : v < 65536) : (BitVec.ofNat 16 v).setWidth 32 = BitVec.ofNat 32 v := by
  apply BitVec.eq_of_toNat_eq
  rw [BitVec.toNat_setWidth, BitVec.toNat_ofNat, BitVec.toNat_ofNat]
  omega

/-- The low half of a constant, widened. -/
theorem setWidth_extractLow (k : Nat) :
    ((BitVec.ofNat 32 k).extractLsb' 0 16).setWidth 32 = BitVec.ofNat 32 (k % 65536) := by
  apply BitVec.eq_of_toNat_eq
  rw [BitVec.toNat_setWidth, BitVec.extractLsb'_toNat, BitVec.toNat_ofNat, BitVec.toNat_ofNat, Nat.shiftRight_zero]
  omega

/-- The high half of a constant, widened. -/
theorem setWidth_extractHigh (k : Nat) (h : k < 2 ^ 32) :
    ((BitVec.ofNat 32 k).extractLsb' 16 16).setWidth 32 = BitVec.ofNat 32 (k / 65536) := by
  apply BitVec.eq_of_toNat_eq
  rw [BitVec.toNat_setWidth, BitVec.extractLsb'_toNat, BitVec.toNat_ofNat, BitVec.toNat_ofNat, Nat.shiftRight_eq_div_pow]
  omega

/-- Two input bytes as a signed number (20_memory.md R43). -/
theorem deviationOfBytes_eq (b0 b1 : Byte) : deviationOfBytes b0 b1 = (b0.toNat : Int) + 256 * b1.toInt := by
  have hcat : (b1 ++ b0 : Half).toNat = b1.toNat * 256 + b0.toNat := by
    rw [BitVec.toNat_append, ← Nat.shiftLeft_add_eq_or_of_lt b0.isLt, Nat.shiftLeft_eq]
  have hlow := b0.isLt
  have hhigh := b1.isLt
  rw [deviationOfBytes, BitVec.toInt_eq_toNat_cond, BitVec.toInt_eq_toNat_cond, hcat]
  split <;> split <;> omega

end Sys2Proof
end

section
/-! CERTIFICATES. The encoding of the commands and of the listings (30_encoding.md). -/

namespace Sys2Proof.Machine

/-- Settles O1: a `MOD` by its operand's range, and the commands without such an operand. -/
theorem decodeInvertsEncode : Obligations.DecodeInvertsEncode := by
  intro i hwf
  cases i with
  | mod dev =>
    rw [Instr.wf, Bool.and_eq_true, decide_eq_true_eq, decide_eq_true_eq] at hwf
    exact decode_encode_mod hwf.1 hwf.2
  | ldkl | ldkh | clrph | flush => exact decode_encode_of_not_mod rfl

/-- Settles O2: the word's fields are those of its command. -/
theorem encodeInvertsDecode : Obligations.EncodeInvertsDecode :=
  fun _ _ h => ⟨wf_of_decode h, encode_of_decode h⟩

/-- Settles O5: a word is its row's match with the immediate as a number. -/
theorem listingEncodings : Obligations.ListingEncodings := by
  refine ⟨fun d _ _ => ?signed, fun v hv => ⟨?low, ?high⟩, by decide, by decide, fun k hk => ?constant,
    fun b0 b1 => ⟨?bytes, deviationOfBytes_eq b0 b1⟩⟩
  case signed => rw [encode_eq_or, immOfInstr, setWidth_ofInt]; rfl
  case low => rw [encode_eq_or, immOfInstr, setWidth_ofNat (by omega)]; rfl
  case high => rw [encode_eq_or, immOfInstr, setWidth_ofNat (by omega)]; rfl
  case constant =>
    rw [expandLdk, List.map_cons, List.map_cons, List.map_nil, encode_eq_or, encode_eq_or, immOfInstr, immOfInstr,
      setWidth_extractLow, setWidth_extractHigh k hk]
    rfl
  case bytes =>
    obtain ⟨hop, hrsv, himm⟩ := Laws.fields_of_parts (opcodeBits .mod) 0 (b1 ++ b0)
    have hrow : MatchesRow ((opcodeBits .mod ++ (0 : BitVec 12)) ++ (b1 ++ b0 : Half)) .mod :=
      (matchesRow_iff _ _).mpr ⟨hop, hrsv, fun h => absurd h (by decide)⟩
    have hd := hrow.decode_eq
    rw [himm] at hd
    exact hd

/-- Settles O6: the printed words, decoded one by one. -/
theorem printedWordsDecode : Obligations.PrintedWordsDecode :=
  ⟨by decide, by decide, by decide, by decide, by decide, by decide, by decide, by decide, by decide⟩

/-- Settles O7: a presented command by whether it is held; while faulted both sides discard it. -/
theorem stepRunsPresentedCommand : Obligations.StepRunsPresentedCommand := by
  refine fun s w i hpres hd => ⟨fun hh => ?_, fun hh => ?_⟩
  · by_cases herr : s.errc = none
    · exact step_command hpres herr hd hh
    · rw [step_discards hpres herr, exec_faulted (s := s.acceptWord) i herr]
  · obtain ⟨herr, -⟩ := (s.holds_iff i).mp hh
    exact step_held hpres herr hd hh

end Sys2Proof.Machine
end

section
/-! SUPPORT. Bytes and slots as the sink reads them, and what a command or a turn can answer (20_memory.md R42,
60_exceptions.md section 2). -/

namespace Sys2Proof.Machine

/-! ### Bytes and slots as values -/

/-- A byte's value depends on the memory and the epoch. -/
theorem State.bufByte_congr {s t : State} {a : Nat} (hread : t.buf.read a = s.buf.read a) (hepoch : t.epoch = s.epoch) :
    t.bufByte a = s.bufByte a := by
  rw [State.bufByte, State.bufByte, hread, hepoch]

/-- A slot's value depends on its four bytes. -/
theorem State.slotValue_congr {s t : State} {k : Nat}
    (h : ∀ a, 4 * k ≤ a → a < 4 * k + 4 → t.bufByte a = s.bufByte a) : t.slotValue k = s.slotValue k := by
  rw [State.slotValue, State.slotValue, h _ (by omega) (by omega), h _ (by omega) (by omega), h _ (by omega) (by omega),
    h _ (by omega) (by omega)]

/-! ### What a turn can answer -/

/-- A command has a next state, or is a `MOD` whose pointer is no slot (log entry 11). -/
theorem exec_answers (i : Instr) (s : State) :
    (∃ t, exec i s = .next t) ∨ (exec i s = .fault .slotOutOfRange ∧ s.cfg.bufCap ≤ s.wrPtr.toNat) := by
  cases i with
  | mod dev =>
    by_cases hptr : s.wrPtr.toNat < s.cfg.bufCap
    · left
      simp only [exec, execMod, hptr, if_true]
      split
      · exact ⟨_, rfl⟩
      · split
        · exact ⟨_, rfl⟩
        · split <;> exact ⟨_, rfl⟩
    · simp only [exec, execMod, hptr, if_false]
      split
      · exact .inl ⟨_, rfl⟩
      · split
        · exact .inl ⟨_, rfl⟩
        · split
          · exact .inl ⟨_, rfl⟩
          · exact .inr ⟨rfl, Nat.le_of_not_lt hptr⟩
  | ldkl v => exact .inl ⟨_, execLdkl_eq v s⟩
  | ldkh v => exact .inl ⟨_, execLdkh_eq v s⟩
  | clrph => exact .inl ⟨_, execClrph_eq s⟩
  | flush => exact .inl ⟨_, execFlush_eq s⟩

/-- A turn has a next state, or stops where the pointer is no slot (log entry 11). -/
theorem step_answers (s : State) :
    (∃ t, step s = .next t) ∨ (step s = .fault .slotOutOfRange ∧ s.cfg.bufCap ≤ s.wrPtr.toNat) := by
  cases ha : s.action with
  | command i =>
    have hstep : step s = exec i s.acceptWord := by rw [step, ha]
    rw [hstep]
    exact exec_answers i s.acceptWord
  | idle | held i | discard w | illegal c w | wait slot | read slot | release ok | reset =>
    simp [step, ha, execRd, execRel, execReset]

/-- While the pointer is a slot every turn has a next state. -/
theorem exists_step {s : State} (hptr : s.wrPtr.toNat < s.cfg.bufCap) : ∃ t, step s = .next t :=
  (step_answers s).resolve_right fun ⟨_, hout⟩ => Nat.not_lt_of_le hout hptr

end Sys2Proof.Machine
end

section
/-! CERTIFICATES. Completeness of the step, and the frames and corner cases of the commands (40_modulate.md,
41_config.md, 42_stream_control.md section 2). -/

namespace Sys2Proof.Machine

/-- Settles O9: the answers of a turn, and the pointer's invariant. -/
theorem everyTurnCompletes : Obligations.EveryTurnCompletes := by
  refine ⟨fun s h => exists_step h.pointer, fun s r hr => ?_, fun s r hr => ?_⟩
  · obtain ⟨t, ht⟩ | ⟨hfault, -⟩ := step_answers s
    · cases ht.symm.trans hr
    · cases hfault.symm.trans hr
  · obtain ⟨t, ht⟩ | ⟨-, hout⟩ := step_answers s
    · cases ht.symm.trans hr
    · exact hout

/-- Settles O14: `MOD` by cases: discarded or held, stopped, or running. -/
theorem modFrame : Obligations.ModFrame := by
  intro s t dev h
  obtain rfl | hne := eq_or_ne t s
  · exact ⟨rfl, rfl, rfl, rfl, rfl, rfl, rfl, rfl, rfl, fun _ _ => ⟨rfl, rfl⟩, fun _ => ⟨rfl, rfl, rfl, rfl, rfl⟩,
      fun _ => ⟨rfl, rfl⟩, fun _ => ⟨rfl, rfl⟩⟩
  obtain ⟨-, hts⟩ | ⟨hf, hend, rfl⟩ | ⟨-, -, -, hts⟩ | ⟨hf, hend, hown, -, rfl⟩ := execMod_cases h
  · exact absurd hts hne
  · refine ⟨rfl, rfl, rfl, rfl, rfl, rfl, rfl, rfl, rfl, fun _ _ => ⟨rfl, rfl⟩, fun _ => ⟨rfl, rfl, rfl, rfl, rfl⟩,
      fun hrun => ?_, fun _ => ⟨rfl, rfl⟩⟩
    have hfree := s.ended_eq_false_iff.mpr (hrun.resolve_left (not_not_intro (s.faulted_eq_false_iff.mp hf)))
    exact absurd (hfree.symm.trans hend) Bool.false_ne_true
  · exact absurd hts hne
  · have herr := s.faulted_eq_false_iff.mp hf
    obtain ⟨heos, hsfail⟩ := s.ended_eq_false_iff.mp hend
    refine ⟨rfl, rfl, rfl, rfl, rfl, rfl, rfl, rfl, rfl, fun a ha => ?outside, fun hstop => ?stopped, fun _ => ⟨rfl, rfl⟩,
      fun hinner => by simp [hinner]⟩
    case outside =>
      have hread : (s.modulate dev).buf.read a = s.buf.read a := Memory.read_writeSlot_outside _ _ _ (by omega)
      exact ⟨hread, State.bufByte_congr hread rfl⟩
    case stopped => simp [herr, heos, hsfail, hown] at hstop

/-- Settles O20: a load or a clear by whether it is discarded. -/
theorem configurationFrame : Obligations.ConfigurationFrame := by
  intro s t i hi h
  obtain rfl | hne := eq_or_ne t s
  · exact ⟨rfl, rfl, rfl, rfl, rfl, rfl, rfl, rfl, rfl, rfl, rfl, rfl, rfl, fun _ => ⟨rfl, rfl⟩, fun _ => rfl,
      fun _ => rfl, fun _ => rfl, fun _ => rfl⟩
  have herr : s.errc = none := by
    by_contra herr
    cases (exec_faulted i herr).symm.trans h
    exact hne rfl
  obtain ⟨v, rfl⟩ | ⟨v, rfl⟩ | rfl := hi
  · cases (exec_ldkl_running v herr).symm.trans h
    exact ⟨rfl, rfl, rfl, rfl, rfl, rfl, rfl, rfl, rfl, rfl, rfl, rfl, rfl, fun _ => ⟨rfl, rfl⟩, fun _ => rfl,
      fun hi => (by cases hi), fun _ => extractHigh_withLowHalf _ _, fun ⟨_, hi⟩ => (by cases hi)⟩
  · cases (exec_ldkh_running v herr).symm.trans h
    exact ⟨rfl, rfl, rfl, rfl, rfl, rfl, rfl, rfl, rfl, rfl, rfl, rfl, rfl, fun _ => ⟨rfl, rfl⟩, fun _ => rfl,
      fun hi => (by cases hi), fun ⟨_, hi⟩ => (by cases hi), fun _ => extractLow_withHighHalf _ _⟩
  · cases (exec_clrph_running herr).symm.trans h
    exact ⟨rfl, rfl, rfl, rfl, rfl, rfl, rfl, rfl, rfl, rfl, rfl, rfl, rfl, fun _ => ⟨rfl, rfl⟩,
      fun hi => absurd rfl hi, fun _ => rfl, fun ⟨_, hi⟩ => (by cases hi), fun ⟨_, hi⟩ => (by cases hi)⟩

/-- Settles O21: one half loaded, both, and the `MOD` between. -/
theorem splitConstantLoad : Obligations.SplitConstantLoad := by
  have whole (k : Word) : (k.extractLsb' 16 16 : Half) ++ (k.extractLsb' 0 16 : Half) = k := withLowHalf_self k
  refine ⟨fun s k herr => ?both, fun s k dev herr heos hsfail hown hptr => ⟨?afterLow, ?afterHigh⟩,
    fun s k herr hhigh => ?low, fun s k herr hlow => ?high⟩
  case both =>
    refine ⟨_, _, exec_ldkl_running _ herr, exec_ldkh_running (s := s.setScale _) _ herr, rfl, ?_⟩
    rw [State.setScale_kscale, State.setScale_kscale, withHighHalf_withLowHalf, whole]
  case afterLow =>
    exact ⟨_, _, exec_ldkl_running _ herr, exec_mod_running (s := s.setScale _) dev herr heos hsfail hown hptr, rfl⟩
  case afterHigh =>
    exact ⟨_, _, exec_ldkh_running _ herr, exec_mod_running (s := s.setScale _) dev herr heos hsfail hown hptr, rfl⟩
  case low =>
    rw [exec_ldkl_running _ herr, withLowHalf, hhigh, whole]
    rfl
  case high =>
    rw [exec_ldkh_running _ herr, withHighHalf, hlow, whole]
    rfl

/-- Settles O23: `FLUSH` by cases: discarded, stopped, or ending the stream with or without a fill. -/
theorem flushFrame : Obligations.FlushFrame := by
  intro s t h
  rw [exec, execFlush_eq] at h
  cases h
  split
  · exact ⟨rfl, rfl, rfl, rfl, rfl, rfl, rfl, rfl, rfl, fun _ _ => ⟨rfl, rfl⟩, fun _ => ⟨rfl, rfl, rfl, rfl⟩,
      fun _ => ⟨rfl, rfl, rfl, rfl, rfl⟩, fun _ => ⟨rfl, rfl⟩⟩
  next hf =>
  have herr := s.faulted_eq_false_iff.mp (Bool.eq_false_iff.mpr hf)
  split
  · next hend =>
    refine ⟨rfl, rfl, rfl, rfl, rfl, rfl, rfl, rfl, rfl, fun _ _ => ⟨rfl, rfl⟩, fun _ => ⟨rfl, rfl, rfl, rfl⟩,
      fun _ => ⟨rfl, rfl, rfl, rfl, rfl⟩, fun hrun => ?_⟩
    have hfree := s.ended_eq_false_iff.mpr (hrun.resolve_left (not_not_intro herr))
    exact absurd (hfree.symm.trans hend) Bool.false_ne_true
  · next hend =>
    refine ⟨rfl, rfl, rfl, rfl, rfl, rfl, rfl, rfl, rfl, fun a ha => ?outside, fun hw => ?empty, fun hstop => ?stopped,
      fun _ => ⟨rfl, rfl⟩⟩
    case outside =>
      have hread := s.endStream_read_outside ha
      exact ⟨hread, State.bufByte_congr hread rfl⟩
    case empty =>
      rw [State.endStream_of_empty hw]
      exact ⟨rfl, rfl, rfl, rfl⟩
    case stopped => exact absurd (s.ended_eq_true_iff.mpr (hstop.resolve_left (not_not_intro herr))) hend

/-- Settles O24: the end of the stream with an empty fill, with one slot to pad, and with one slot in all. -/
theorem flushCornerCases : Obligations.FlushCornerCases := by
  refine ⟨fun s herr heos hsfail hw => ?empty, fun s herr heos hsfail hw hlast => ?oneSlot,
    fun s hinv hcap herr heos hsfail => ?single⟩
  case empty =>
    rw [exec_flush_running herr heos hsfail, State.endStream_of_empty hw]
    exact ⟨_, rfl, rfl, rfl, rfl, rfl⟩
  case oneSlot =>
    have hne := toNat_ne_zero.mpr hw
    exact ⟨_, exec_flush_running herr heos hsfail, by rw [State.endStream_of_partial hw],
      by rw [State.endStream_of_partial hw], State.endStream_slot_padding hw le_rfl (by omega),
      fun a ha => s.endStream_read_outside (by omega)⟩
  case single =>
    have hw : s.wrPtr = 0 := BitVec.eq_of_toNat_eq (Nat.lt_one_iff.mp (hcap ▸ hinv.pointer))
    rw [exec_flush_running herr heos hsfail, State.endStream_of_empty hw]

end Sys2Proof.Machine
end

section
/-! SUPPORT. Runs turn by turn, and an induction over them for what every allowed turn keeps; the turn of an executed `MOD`
or `FLUSH`. -/

namespace Sys2Proof.Machine

/-! ### Runs -/

/-- A run that goes on has a first turn with a next state. -/
theorem runSteps_succ_inv {k : Nat} {s u : State} (h : runSteps (k + 1) s = .next u) :
    ∃ t, step s = .next t ∧ runSteps k t = .next u := by
  rw [runSteps] at h
  split at h
  · next t ht => exact ⟨t, ht, h⟩
  · cases h
  · cases h

/-- What is not among the actions of a run is neither its first action nor among the others. -/
theorem not_mem_actionsIn_succ {k : Nat} {s t : State} {a : Action} (hstep : step s = .next t)
    (h : a ∉ actionsIn (k + 1) s) : s.action ≠ a ∧ a ∉ actionsIn k t := by
  rw [actionsIn_succ_next k hstep, List.mem_cons, not_or] at h
  exact ⟨Ne.symm h.1, h.2⟩

/-- A relation that every turn with an allowed action keeps holds between the ends of a run of allowed actions. -/
theorem runSteps_keeps {P : Action → Prop} {R : State → State → Prop} (hrefl : ∀ s, R s s)
    (htrans : ∀ {s t u}, R s t → R t u → R s u) (hturn : ∀ {s t}, s.Turn t → P s.action → R s t) :
    ∀ {k : Nat} {s t : State}, runSteps k s = .next t → (∀ a ∈ actionsIn k s, P a) → R s t := by
  intro k
  induction k with
  | zero =>
    intro s t hrun _
    cases hrun
    exact hrefl s
  | succ k ih =>
    intro s u hrun hacts
    obtain ⟨t, hstep, hrest⟩ := runSteps_succ_inv hrun
    rw [actionsIn_succ_next k hstep] at hacts
    exact htrans (hturn (step_turn hstep) (hacts _ List.mem_cons_self))
      (ih hrest fun a ha => hacts a (List.mem_cons_of_mem _ ha))

/-- No turn changes the configuration (10_state.md R36). -/
theorem State.Turn.cfg_eq {s t : State} (h : s.Turn t) : t.cfg = s.cfg := by cases h <;> rfl

/-- No run changes the configuration. -/
theorem runSteps_cfg {k : Nat} {s t : State} (h : runSteps k s = .next t) : t.cfg = s.cfg :=
  runSteps_keeps (P := fun _ => True) (R := fun s t => t.cfg = s.cfg) (fun _ => rfl) (fun h h' => h'.trans h)
    (fun h _ => h.cfg_eq) h fun _ _ => trivial

/-! ### Executed commands -/

/-- An executed `MOD` or `FLUSH` comes before the end of the stream. -/
theorem State.not_ended_of_executed {s : State} {i : Instr} (h : s.executed = some i) (hi : stoppable i = true) :
    s.ended = false := by
  have ha := State.action_of_executed h
  by_contra hend
  simp [State.executed, ha, hi, Bool.eq_true_of_not_eq_false hend] at h

/-- An executed `MOD` runs: nothing faults, stops or holds it. -/
theorem State.running_of_executed_mod {s : State} {dev : Int} (h : s.executed = some (.mod dev)) :
    s.errc = none ∧ s.eos = false ∧ s.sfail = false ∧ s.own = false := by
  obtain ⟨heos, hsfail⟩ := s.ended_eq_false_iff.mp (State.not_ended_of_executed h rfl)
  obtain ⟨w, -, herr, -, hh⟩ := State.presented_of_command (State.action_of_executed h)
  refine ⟨herr, heos, hsfail, Bool.eq_false_iff.mpr fun hown => ?_⟩
  exact absurd (hh.symm.trans ((s.holds_iff _).mpr ⟨herr, ⟨dev, rfl⟩, heos, hsfail, hown⟩)) Bool.false_ne_true

/-- The turn of an executed `MOD` with the pointer at a slot. -/
theorem step_executed_mod {s : State} {dev : Int} (h : s.executed = some (.mod dev))
    (hptr : s.wrPtr.toNat < s.cfg.bufCap) : step s = .next (s.acceptWord.modulate dev) := by
  obtain ⟨herr, heos, hsfail, hown⟩ := State.running_of_executed_mod h
  rw [step, State.action_of_executed h]
  exact exec_mod_running (s := s.acceptWord) dev herr heos hsfail hown hptr

/-- The turn of an executed `FLUSH`. -/
theorem step_executed_flush {s : State} (h : s.executed = some .flush) : step s = .next s.acceptWord.endStream := by
  obtain ⟨heos, hsfail⟩ := s.ended_eq_false_iff.mp (State.not_ended_of_executed h rfl)
  obtain ⟨w, -, herr, -, -⟩ := State.presented_of_command (State.action_of_executed h)
  rw [step, State.action_of_executed h]
  exact exec_flush_running (s := s.acceptWord) herr heos hsfail

end Sys2Proof.Machine
end

section
/-! SUPPORT. What only some turns change: the flags, the fill and the owner (70_reset_and_hazards.md section 1,
60_exceptions.md section 4). -/

namespace Sys2Proof.Machine

/-- Only reset clears the end of the stream. -/
theorem State.Turn.eos_kept {s t : State} (h : s.Turn t) (hreset : s.action ≠ .reset) (heos : s.eos = true) :
    t.eos = true := by
  cases h with
  | resets ha => exact absurd ha hreset
  | ends => rfl
  | passes | discards | rejects | stops | samples | loadsLow | loadsHigh | clears | reads | releases => exact heos

/-- `SFAIL` is set by a failing release of a buffer the sink holds, and kept by everything but reset. -/
theorem State.Turn.sfail_cases {s t : State} (h : s.Turn t) (hreset : s.action ≠ .reset) :
    t.sfail = s.sfail ∨ (s.action = .release false ∧ s.own = true ∧ t.sfail = true) := by
  cases h with
  | resets ha => exact absurd ha hreset
  | @releases ok ha =>
    obtain hown | hown := Bool.eq_false_or_eq_true s.own
    · cases ok with
      | true => exact .inl (by simp)
      | false => exact .inr ⟨ha, hown, by simp [hown]⟩
    · exact .inl (by simp [hown])
  | passes | discards | rejects | stops | samples | loadsLow | loadsHigh | clears | ends | reads => exact .inl rfl

/-- Only reset clears a failed push. -/
theorem State.Turn.sfail_kept {s t : State} (h : s.Turn t) (hreset : s.action ≠ .reset) (hsfail : s.sfail = true) :
    t.sfail = true := by
  obtain hsame | ⟨-, -, hset⟩ := h.sfail_cases hreset
  · exact hsame.trans hsfail
  · exact hset

/-- Only reset clears a recorded fault (60_exceptions.md R133). -/
theorem State.Turn.fault_kept {s t : State} (h : s.Turn t) (hreset : s.action ≠ .reset) (herr : s.errc ≠ none) :
    t.errc = s.errc ∧ t.errw = s.errw := by
  cases h with
  | resets ha => exact absurd ha hreset
  | rejects _ _ hnone | stops _ hnone | samples _ hnone | loadsLow _ hnone | loadsHigh _ hnone | clears _ hnone
  | ends _ hnone => exact absurd hnone herr
  | passes | discards | reads | releases => exact ⟨rfl, rfl⟩

/-- The owner changes at a hand-over, at a release and at a reset only (10_state.md R28). -/
theorem State.Turn.own_cases {s t : State} (h : s.Turn t) (hreset : s.action ≠ .reset) :
    t.own = s.own ∨ ((∃ ok, s.action = .release ok) ∧ t.own = false) ∨
      (∃ dev, s.executed = some (.mod dev) ∧ s.wrPtr.toNat + 1 = s.cfg.bufCap ∧ t.own = true) ∨
      (s.executed = some .flush ∧ s.wrPtr ≠ 0 ∧ t.own = true) := by
  cases h with
  | resets ha => exact absurd ha hreset
  | @releases ok ha => exact .inr (.inl ⟨⟨ok, ha⟩, rfl⟩)
  | @samples dev ha _ hend _ _ =>
    by_cases hlast : s.wrPtr.toNat + 1 = s.cfg.bufCap
    · exact .inr (.inr (.inl ⟨dev, State.executed_of_action ha (.inr hend), hlast, by simp [hlast]⟩))
    · exact .inl (by simp [hlast])
  | ends ha _ hend =>
    by_cases hw : s.wrPtr = 0
    · exact .inl (by rw [State.endStream_of_empty (s := s.acceptWord) hw]; rfl)
    · refine .inr (.inr (.inr ⟨State.executed_of_action ha (.inr hend), hw, ?_⟩))
      rw [State.endStream_of_partial (s := s.acceptWord) hw]
  | passes | discards | rejects | stops | loadsLow | loadsHigh | clears | reads => exact .inl rfl

/-- The pointer moves on by a sample, and goes back to zero at a hand-over and at a reset only (10_state.md R34 I7). -/
theorem State.Turn.wrPtr_cases {s t : State} (h : s.Turn t) (hinv : s.Inv) (hreset : s.action ≠ .reset)
    (hw : s.wrPtr ≠ 0) :
    t.wrPtr.toNat = s.wrPtr.toNat ∨ t.wrPtr.toNat = s.wrPtr.toNat + 1 ∨
      (t.wrPtr = 0 ∧ s.own = false ∧ t.own = true) := by
  have hfree := hinv.not_own_of_fill hw
  cases h with
  | resets ha => exact absurd ha hreset
  | @samples dev _ _ _ hown hptr =>
    obtain hinner | hlast := Nat.lt_or_eq_of_le (Nat.succ_le_of_lt hptr)
    · obtain ⟨-, hmoved, -⟩ := State.modulate_innerSlot (s := s.acceptWord) dev hinv.capOk hown hinner
      exact .inr (.inl hmoved)
    · obtain ⟨-, hzero, hover⟩ := State.modulate_lastSlot (s := s.acceptWord) dev hinv.capOk hlast
      exact .inr (.inr ⟨hzero, hfree, hover⟩)
  | ends =>
    refine .inr (.inr ⟨rfl, hfree, ?_⟩)
    rw [State.endStream_of_partial (s := s.acceptWord) hw]
  | passes | discards | rejects | stops | loadsLow | loadsHigh | clears | reads | releases => exact .inl rfl

theorem State.faultOut_eq_true_iff (s : State) : s.faultOut = true ↔ s.errc ≠ none ∨ s.sfail = true := by
  rw [State.faultOut, Bool.or_eq_true, State.faulted, Option.isSome_iff_ne_none]

/-- After the fault action the block is faulted, whether this fault was the first or not (60_exceptions.md R133). -/
theorem State.faultOut_raise (s : State) (c : FaultCode) (w : Word) : (s.raise c w).faultOut = true := by
  refine (State.faultOut_eq_true_iff _).mpr (.inl ?_)
  rw [State.raise_errc]
  split
  · exact Option.some_ne_none c
  · next herr => exact herr

end Sys2Proof.Machine
end

section
/-! CERTIFICATES. The configuration, the reset event, the flags and the event outputs (10_state.md section 8,
70_reset_and_hazards.md section 1, 60_exceptions.md section 4). -/

namespace Sys2Proof.Machine

/-- Settles O41: no turn writes the configuration. -/
theorem configurationIsConstant : Obligations.ConfigurationIsConstant := fun _ _ _ => runSteps_cfg

/-- Settles O35: the reset turn, element by element. -/
theorem resetSetsEveryElement : Obligations.ResetSetsEveryElement := by
  intro s hturn
  obtain ⟨ts, hts⟩ := List.head?_eq_some_iff.mp hturn
  have hstep : step s = .next s.passTurn.resetEvent := by simp [step, State.action, hts, execReset]
  have hstatus : s.passTurn.resetEvent.statusWord = 0 := by
    simp only [State.statusWord, State.resetEvent_wrPtr, State.resetEvent_errc, State.resetEvent_sfail,
      State.resetEvent_eos, State.resetEvent_own]
    decide
  have hcount : s.passTurn.resetEvent.vcntWord = 0 := by
    simp only [State.vcntWord, State.resetEvent_vcnt]
    decide
  exact ⟨_, hstep, rfl, rfl, rfl, rfl, rfl, rfl, rfl, rfl, rfl, fun _ => ⟨rfl, rfl⟩, rfl, hstatus, hcount, rfl, rfl, rfl,
    rfl, rfl⟩

/-- Settles O36: what each kind of turn does to the flags, the fault registers, the pointer and the owner. -/
theorem onlyResetClears : Obligations.OnlyResetClears := by
  intro s t hstep hreset
  have hturn := step_turn hstep
  refine ⟨hturn.eos_kept hreset, hturn.sfail_kept hreset, hturn.fault_kept hreset,
    fun hinv => hturn.wrPtr_cases hinv hreset, fun hown => ?_⟩
  obtain hsame | ⟨hrel, -⟩ | ⟨-, -, -, hover⟩ | ⟨-, -, hover⟩ := hturn.own_cases hreset
  · exact .inl (hsame.trans hown)
  · exact .inr hrel
  · exact .inl hover
  · exact .inl hover

/-- Settles O38: the two outputs as functions of the state, what a turn does to each, and the turns that do it. -/
theorem eventOutputs : Obligations.EventOutputs := by
  refine ⟨fun s => ⟨rfl, s.faultOut_eq_true_iff⟩, fun s t h (hfree : s.own = false) (hover : t.own = true) => ?rdyRises,
    fun s t h (hown : s.own = true) (hback : t.own = false) => ?rdyFalls, fun s t h hclear hset => ?faultRises,
    fun s t h hset hclear => ?faultFalls, fun s dev he hlast => ?sample, fun s he hw => ?flush, fun s ok ha => ?released,
    fun s c w => ⟨s.faultOut_raise c w, fun ha => ?illegal⟩, fun s i ha hi hend => ?stopped, fun s ha => ?reset⟩
  case rdyRises =>
    by_cases hreset : s.action = .reset
    · rw [step, hreset] at h
      cases h
      cases hover
    obtain hsame | ⟨-, hback⟩ | ⟨dev, he, hlast, -⟩ | ⟨he, hw, -⟩ := (step_turn h).own_cases hreset
    · exact absurd (hfree.symm.trans (hsame.symm.trans hover)) Bool.false_ne_true
    · exact absurd (hback.symm.trans hover) Bool.false_ne_true
    · exact .inl ⟨dev, he, hlast⟩
    · exact .inr ⟨he, hw⟩
  case rdyFalls =>
    by_cases hreset : s.action = .reset
    · exact .inl hreset
    obtain hsame | ⟨hrel, -⟩ | ⟨-, -, -, hover⟩ | ⟨-, -, hover⟩ := (step_turn h).own_cases hreset
    · exact absurd (hback.symm.trans (hsame.trans hown)) Bool.false_ne_true
    · exact .inr hrel
    · exact absurd (hback.symm.trans hover) Bool.false_ne_true
    · exact absurd (hback.symm.trans hover) Bool.false_ne_true
  case faultRises =>
    have hcalm : ¬ (s.errc ≠ none ∨ s.sfail = true) := fun hf =>
      absurd (hclear.symm.trans (s.faultOut_eq_true_iff.mpr hf)) Bool.false_ne_true
    rw [not_or, not_not] at hcalm
    obtain ⟨herr, hsfail⟩ := hcalm
    obtain herr' | hsfail' := t.faultOut_eq_true_iff.mp hset
    · exact .inl ⟨herr, herr'⟩
    · by_cases hreset : s.action = .reset
      · rw [step, hreset] at h
        cases h
        cases hsfail'
      obtain hsame | ⟨hrel, hown, -⟩ := (step_turn h).sfail_cases hreset
      · exact absurd (hsame.symm.trans hsfail') hsfail
      · exact .inr ⟨hrel, hown⟩
  case faultFalls =>
    by_contra hreset
    have hturn := step_turn h
    refine absurd (hclear.symm.trans (t.faultOut_eq_true_iff.mpr ?_)) Bool.false_ne_true
    obtain herr | hsfail := s.faultOut_eq_true_iff.mp hset
    · exact .inl (by rwa [(hturn.fault_kept hreset herr).1])
    · exact .inr (hturn.sfail_kept hreset hsfail)
  case sample =>
    obtain ⟨-, -, -, hown⟩ := State.running_of_executed_mod he
    exact ⟨_, step_executed_mod he (by omega), hown, by simp [State.bufRdy, hlast]⟩
  case flush =>
    refine ⟨_, step_executed_flush he, ?_⟩
    rw [State.endStream_of_partial (s := s.acceptWord) hw]
    rfl
  case released =>
    refine ⟨s.acceptSink.release ok, by rw [step, ha]; rfl, rfl, fun hown hok => ?_⟩
    exact (State.faultOut_eq_true_iff _).mpr (.inr (by simp [hown, hok]))
  case illegal =>
    obtain ⟨hpres, herr, hd⟩ := State.presented_of_illegal ha
    exact ⟨_, step_illegal hpres herr hd, herr, State.faultOut_raise _ _ _⟩
  case stopped =>
    obtain ⟨w, hpres, herr, hd, hh⟩ := State.presented_of_command ha
    have hexec := exec_stopped (s := s.acceptWord) herr ((stoppable_iff i).mpr hi) (s.ended_eq_true_iff.mpr hend)
    exact ⟨_, (step_command hpres herr hd hh).trans hexec, by simp [herr], State.faultOut_raise _ _ _⟩
  case reset => exact ⟨s.passTurn.resetEvent, by rw [step, ha]; rfl, rfl, rfl⟩

end Sys2Proof.Machine
end

section
/-! SUPPORT. Runs that stay without a fault (70_reset_and_hazards.md section 3), and what the sink sees: its slots, a read
that waits, and the buffer during a push (43_sink_port.md section 2, 20_memory.md section 5). -/

namespace Sys2Proof.Machine

/-! ### Orderly turns -/

/-- A stopped command shows hazard H4 (70_reset_and_hazards.md R159). -/
theorem State.afterEnd_mem_hazards {s : State} {i : Instr} (ha : s.action = .command i) (hi : stoppable i = true)
    (hend : s.ended = true) : Hazard.afterEnd ∈ s.hazards := by
  obtain ⟨dev, rfl⟩ | rfl := (stoppable_iff i).mp hi <;> simp [State.hazards, ha, hend, stoppable]

/-- A turn that accepts no illegal word, no command after the end and no failed push leaves the block without a fault. -/
theorem State.Turn.orderly {s t : State} (h : s.Turn t) (herr : s.errc = none) (hsfail : s.sfail = false)
    (hlegal : ∀ c w, s.action ≠ .illegal c w) (hbefore : Hazard.afterEnd ∉ s.hazards)
    (hpush : s.action ≠ .release false) : t.errc = none ∧ t.sfail = false := by
  cases h with
  | discards _ _ herr' => exact absurd herr herr'
  | @rejects c w ha => exact absurd ha (hlegal c w)
  | stops ha _ hi hend => exact absurd (State.afterEnd_mem_hazards ha hi hend) hbefore
  | @releases ok ha =>
    cases ok with
    | false => exact absurd ha hpush
    | true => exact ⟨herr, by simp [hsfail]⟩
  | resets => exact ⟨rfl, rfl⟩
  | passes | samples | loadsLow | loadsHigh | clears | ends | reads => exact ⟨herr, hsfail⟩

/-- A run of such turns leaves the block without a fault. -/
theorem runSteps_orderly {k : Nat} {s t : State} (hrun : runSteps k s = .next t) (herr : s.errc = none)
    (hsfail : s.sfail = false) (hlegal : ∀ c w, Action.illegal c w ∉ actionsIn k s)
    (hbefore : Hazard.afterEnd ∉ collect State.hazards k s) (hpush : Action.release false ∉ actionsIn k s) :
    t.errc = none ∧ t.sfail = false := by
  induction k generalizing s with
  | zero =>
    cases hrun
    exact ⟨herr, hsfail⟩
  | succ k ih =>
    obtain ⟨u, hstep, hrest⟩ := runSteps_succ_inv hrun
    rw [collect_succ_next _ _ hstep, List.mem_append, not_or] at hbefore
    obtain ⟨hfirst, hlater⟩ := hbefore
    have hlegal' := fun c w => not_mem_actionsIn_succ hstep (hlegal c w)
    have hpush' := not_mem_actionsIn_succ hstep hpush
    obtain ⟨herr', hsfail'⟩ :=
      (step_turn hstep).orderly herr hsfail (fun c w => (hlegal' c w).1) hfirst hpush'.1
    exact ih hrest herr' hsfail' (fun c w => (hlegal' c w).2) hlater hpush'.2

/-! ### Slots under the invariants -/

/-- Below the count a handed-over buffer holds samples (10_state.md R34 I5). -/
theorem State.Inv.slotValue_sample {s : State} (h : s.Inv) (hown : s.own = true) {k : Nat} (hk : k < s.vcnt.toNat) :
    isSample s.cfg (s.slotValue k) := by
  obtain ⟨v, hv, hsample⟩ := h.owned_samples hown k hk
  rwa [s.slotValue_of_slot k v hv]

/-- From the count on it holds zero (10_state.md R34 I5). -/
theorem State.Inv.slotValue_padding {s : State} (h : s.Inv) (hown : s.own = true) {k : Nat} (hk : s.vcnt.toNat ≤ k)
    (hcap : k < s.cfg.bufCap) : s.slotValue k = 0 :=
  s.slotValue_of_slot k 0 (h.owned_padding hown k hk hcap)

/-! ### A read that waits -/

/-- A read that is not enabled passes the turn (43_sink_port.md R122). -/
theorem step_wait {s : State} {slot : Count} (h : s.requests (.rd slot))
    (hwait : s.own = false ∨ s.cfg.bufCap ≤ slot.toNat) : step s = .next s.passTurn := by
  have hdisabled : ¬ (s.own && decide (slot.toNat < s.cfg.bufCap)) = true := by
    rw [Bool.and_eq_true, decide_eq_true_eq]
    rintro ⟨hown, hslot⟩
    obtain hfree | hout := hwait
    · exact Bool.false_ne_true (hfree.symm.trans hown)
    · exact Nat.not_le_of_lt hslot hout
  refine step_not_enabled (.inr (.inr ⟨slot, ?_⟩))
  rw [h.action_eq, State.sinkAction, if_neg hdisabled]

/-- Only a read or a release takes an operation from the sink port, and only a read is answered. -/
theorem State.Turn.sink_cases {s t : State} (h : s.Turn t) :
    (t.sink = s.sink ∧ t.replies = s.replies) ∨
      (∃ slot, s.requests (.rd slot) ∧ slot.toNat < s.cfg.bufCap) ∨ ∃ ok, s.requests (.rel ok) := by
  cases h with
  | @reads slot _ hreq _ hslot => exact .inr (.inl ⟨slot, hreq, hslot⟩)
  | @releases ok _ hreq => exact .inr (.inr ⟨ok, hreq⟩)
  | passes | discards | rejects | stops | samples | loadsLow | loadsHigh | clears | ends | resets => exact .inl ⟨rfl, rfl⟩

/-- Behind a read of a slot that does not exist nothing is ever performed (43_sink_port.md R122, log entry 8). -/
theorem runSteps_missingSlot {k : Nat} {s t : State} {slot : Count} (hrun : runSteps k s = .next t)
    (hsink : s.sink.head? = some (.rd slot)) (hout : s.cfg.bufCap ≤ slot.toNat) :
    t.sink = s.sink ∧ t.replies = s.replies := by
  induction k generalizing s with
  | zero =>
    cases hrun
    exact ⟨rfl, rfl⟩
  | succ k ih =>
    obtain ⟨u, hstep, hrest⟩ := runSteps_succ_inv hrun
    have hturn := step_turn hstep
    obtain ⟨hsame, hreplies⟩ | ⟨slot', ⟨-, hhead⟩, hslot⟩ | ⟨ok, -, hhead⟩ := hturn.sink_cases
    · obtain ⟨hsame', hreplies'⟩ := ih hrest (hsame ▸ hsink) (hturn.cfg_eq ▸ hout)
      exact ⟨hsame'.trans hsame, hreplies'.trans hreplies⟩
    · cases hsink.symm.trans hhead
      omega
    · cases hsink.symm.trans hhead

/-- The command agent's turn leaves the sink port alone. -/
theorem State.Turn.sink_of_command {s t : State} (h : s.Turn t) (hturn : s.turns.head? = some .command) :
    t.sink = s.sink := by
  obtain ⟨hsame, -⟩ | ⟨slot, ⟨hsink, -⟩, -⟩ | ⟨ok, hsink, -⟩ := h.sink_cases
  · exact hsame
  · cases hturn.symm.trans hsink
  · cases hturn.symm.trans hsink

/-! ### The buffer during a push -/

/-- What a push keeps: the buffer, its count and its owner; and reads are answered from it (20_memory.md O1 to O3). -/
structure State.PushKept (s t : State) : Prop where
  inv : t.Inv
  own : t.own = true
  cfg : t.cfg = s.cfg
  vcnt : t.vcnt = s.vcnt
  buf : t.buf = s.buf
  epoch : t.epoch = s.epoch
  replies : ∃ l : List (Count × Word), t.replies = s.replies ++ l ∧
    ∀ p ∈ l, p.1.toNat < s.cfg.bufCap ∧ p.2 = s.slotValue p.1.toNat

theorem State.PushKept.slotValue {s t : State} (h : s.PushKept t) (k : Nat) : t.slotValue k = s.slotValue k :=
  State.slotValue_congr fun _ _ _ => State.bufByte_congr (by rw [h.buf]) h.epoch

theorem State.pushKept_refl {s : State} (h : s.Inv) (hown : s.own = true) : s.PushKept s :=
  ⟨h, hown, rfl, rfl, rfl, rfl, [], (List.append_nil _).symm, fun _ hp => nomatch hp⟩

theorem State.PushKept.trans {s t u : State} (h : s.PushKept t) (h' : t.PushKept u) : s.PushKept u := by
  obtain ⟨l, hl, hanswers⟩ := h.replies
  obtain ⟨l', hl', hanswers'⟩ := h'.replies
  refine ⟨h'.inv, h'.own, h'.cfg.trans h.cfg, h'.vcnt.trans h.vcnt, h'.buf.trans h.buf, h'.epoch.trans h.epoch, l ++ l',
    by rw [hl', hl, List.append_assoc], fun p hp => ?_⟩
  obtain hp | hp := List.mem_append.mp hp
  · exact hanswers p hp
  · obtain ⟨hslot, hvalue⟩ := hanswers' p hp
    exact ⟨h.cfg ▸ hslot, hvalue.trans (h.slotValue _)⟩

/-- A turn during a push that is neither a release nor a reset. -/
theorem State.Turn.pushKept {s t : State} (h : s.Turn t) (hinv : s.Inv) (hown : s.own = true)
    (hreset : s.action ≠ .reset) (hrel : ∀ ok, s.action ≠ .release ok) : s.PushKept t := by
  have hinv' := hinv.turn h
  have quiet (hown' : t.own = true) (hcfg : t.cfg = s.cfg) (hcnt : t.vcnt = s.vcnt) (hbuf : t.buf = s.buf)
      (hepoch : t.epoch = s.epoch) (hreplies : t.replies = s.replies) : s.PushKept t :=
    ⟨hinv', hown', hcfg, hcnt, hbuf, hepoch, [], by rw [hreplies, List.append_nil], fun _ hp => nomatch hp⟩
  cases h with
  | resets ha => exact absurd ha hreset
  | @releases ok ha => exact absurd ha (hrel ok)
  | samples _ _ _ hfree => exact absurd (hfree.symm.trans hown) Bool.false_ne_true
  | ends =>
    have hempty := State.endStream_of_empty (s := s.acceptWord) (hinv.owned_pointer hown)
    rw [hempty] at quiet ⊢
    exact quiet hown rfl rfl rfl rfl rfl
  | @reads slot _ _ _ hslot =>
    refine ⟨hinv', hown, rfl, rfl, rfl, rfl, [(slot, s.slotValue slot.toNat)], rfl, fun p hp => ?_⟩
    cases List.mem_singleton.mp hp
    exact ⟨hslot, rfl⟩
  | passes | discards | rejects | stops | loadsLow | loadsHigh | clears => exact quiet hown rfl rfl rfl rfl rfl

/-- A run during a push without a release or a reset. -/
theorem runSteps_pushKept {k : Nat} {s t : State} (hinv : s.Inv) (hown : s.own = true)
    (hreset : Action.reset ∉ actionsIn k s) (hrel : ∀ ok, Action.release ok ∉ actionsIn k s)
    (hrun : runSteps k s = .next t) : s.PushKept t := by
  refine runSteps_keeps (P := fun a => a ≠ .reset ∧ ∀ ok, a ≠ .release ok)
    (R := fun s t => s.Inv → s.own = true → s.PushKept t) (fun _ => State.pushKept_refl) (fun h h' hinv hown => ?trans)
    (fun hturn ⟨hreset, hrel⟩ hinv hown => hturn.pushKept hinv hown hreset hrel) hrun (fun a ha => ?allowed) hinv hown
  case trans => exact (h hinv hown).trans (h' (h hinv hown).inv (h hinv hown).own)
  case allowed => exact ⟨fun heq => hreset (heq ▸ ha), fun ok heq => hrel ok (heq ▸ ha)⟩

end Sys2Proof.Machine
end

section
/-! CERTIFICATES. Orderly runs, the sink's reads, the push, and a held `MOD` after the release
(70_reset_and_hazards.md, 43_sink_port.md section 2, 20_memory.md section 5). -/

namespace Sys2Proof.Machine

/-- Settles O29: one orderly turn after the other. -/
theorem orderlyRunsDoNotFault : Obligations.OrderlyRunsDoNotFault := by
  refine ⟨fun k s t hrun herr hsfail hlegal hbefore hpush => ?_, fun s hfault ⟨_, _, herr, hsfail⟩ => ?_⟩
  · obtain ⟨herr', hsfail'⟩ := runSteps_orderly hrun herr hsfail hlegal hbefore hpush
    exact ⟨herr', hsfail', by simp [State.faultOut, State.faulted, herr', hsfail']⟩
  · obtain herr' | hsfail' := hfault
    · exact herr' herr
    · exact Bool.false_ne_true (hsfail.symm.trans hsfail')

/-- Settles O30: the acknowledged read, and the slots of a handed-over buffer. -/
theorem readAnswersSlot : Obligations.ReadAnswersSlot :=
  ⟨fun _ _ hreq hown hslot => step_read hreq hown hslot,
    fun _ _ hinv hown hslot =>
      ⟨fun hlt => hinv.slotValue_sample hown hlt, fun hle => hinv.slotValue_padding hown hle hslot⟩⟩

/-- Settles O31: the turn of a read that waits, the run behind one of a missing slot, and the turn after the hand-over. -/
theorem unenabledReadWaits : Obligations.UnenabledReadWaits := by
  refine ⟨fun s slot hreq hwait => step_wait hreq hwait,
    fun k s t slot hsink hout hrun => runSteps_missingSlot hrun hsink hout,
    fun s t u slot _ hsink hslot hturn hstep hown hnext hread => ?_⟩
  have hmove := step_turn hstep
  have hreq : t.requests (.rd slot) := ⟨hnext, (hmove.sink_of_command hturn).symm ▸ hsink⟩
  cases (step_read hreq hown (hmove.cfg_eq.symm ▸ hslot)).symm.trans hread
  rfl

/-- Settles O33: what a push keeps, read byte by byte. -/
theorem bufferStableDuringPush : Obligations.BufferStableDuringPush := by
  intro k s t hinv hown hreset hrel hrun
  have hkept := runSteps_pushKept hinv hown hreset hrel hrun
  have hread (a : Nat) : t.buf.read a = s.buf.read a := by rw [hkept.buf]
  exact ⟨hkept.own, hkept.vcnt, hkept.inv.owned_pointer hkept.own,
    fun a => ⟨hread a, State.bufByte_congr (hread a) hkept.epoch⟩, hkept.replies⟩

/-- Settles O48: the release, and the `MOD` that it leaves presented and free to run. -/
theorem heldModRunsAfterRelease : Obligations.HeldModRunsAfterRelease := by
  intro s w i rest hinv hcmd hd hheld hturns hsink
  obtain ⟨herr, ⟨dev, rfl⟩, heos, hsfail, hown⟩ := (s.holds_iff i).mp hheld
  have hreq : s.requests (.rel true) := ⟨by simp [hturns], hsink⟩
  have hpres : (s.acceptSink.release true).presents w := ⟨by simp [hturns], hcmd⟩
  have hrun := exec_mod_running (s := (s.acceptSink.release true).acceptWord) dev herr heos (by simp [hsfail]) rfl
    hinv.pointer
  have hstep := (step_command hpres herr hd (State.holds_of_not_own _ rfl)).trans hrun
  have hslot := State.modulate_slot (s.acceptSink.release true).acceptWord dev
  have hptr : (s.acceptSink.release true).acceptWord.wrPtr = 0 := hinv.owned_pointer hown
  rw [hptr] at hslot
  exact ⟨_, dev, rfl, (runSteps_succ_next 1 (step_release hreq)).trans (runSteps_succ_next 0 hstep), rfl, rfl, hslot⟩

/-- Settles O54: the product as a number, and the two halves loaded. -/
theorem scenarioTuningConstant : Obligations.ScenarioTuningConstant := by
  refine ⟨⟨by norm_num, by norm_num, .inl ?_⟩, by decide, fun s herr => ?_⟩
  · have hk : (0x5000A001 : Word).toNat = 0x5000A001 := by decide
    rw [hk, abs_lt]
    constructor <;> norm_num
  · refine ⟨_, _, exec_ldkl_running _ herr, exec_ldkh_running (s := s.setScale _) _ herr, ?_⟩
    rw [State.setScale_kscale, State.setScale_kscale, withHighHalf_withLowHalf]
    decide

end Sys2Proof.Machine
end

section
/-! SUPPORT. The effect of a presented word and of a requested operation as functions of the state, and that they commute
(60_exceptions.md R138). -/

namespace Sys2Proof.Machine

/-! ### The two effects -/

/-- What a command does when it is executed for its own effect. -/
def State.effect (s : State) : Instr → State
  | .mod dev => s.modulate dev
  | .ldkl v => s.setScale (withLowHalf s.kscale v)
  | .ldkh v => s.setScale (withHighHalf s.kscale v)
  | .clrph => s.setPhase 0
  | .flush => s.endStream

/-- What an accepted command does: it faults after the end, if it is one that does, and else has its effect. -/
def State.perform (s : State) (i : Instr) : State :=
  if stoppable i && s.ended then s.raise .stopped (encode i) else s.effect i

/-- What an accepted word does (30_encoding.md R66). -/
def State.obey (s : State) (w : Word) : State :=
  if s.faulted then s
  else
    match decode w with
    | .illegal c => s.raise c w
    | .ok i => s.perform i

/-- What an operation of the sink does (43_sink_port.md R121, R123). -/
def State.answer (s : State) : SinkOp → State
  | .rd slot => s.reply slot
  | .rel ok => s.release ok

theorem State.obey_faulted {s : State} (w : Word) (herr : s.errc ≠ none) : s.obey w = s :=
  if_pos (Option.isSome_iff_ne_none.mpr herr)

theorem State.obey_illegal {s : State} {w : Word} {c : FaultCode} (herr : s.errc = none) (hd : decode w = .illegal c) :
    s.obey w = s.raise c w := by
  simp [State.obey, s.faulted_eq_false_iff.mpr herr, hd]

theorem State.obey_ok {s : State} {w : Word} {i : Instr} (herr : s.errc = none) (hd : decode w = .ok i) :
    s.obey w = s.perform i := by
  simp [State.obey, s.faulted_eq_false_iff.mpr herr, hd]

theorem State.perform_stopped {s : State} {i : Instr} (hi : stoppable i = true) (hend : s.ended = true) :
    s.perform i = s.raise .stopped (encode i) := by
  simp [State.perform, hi, hend]

theorem State.perform_running {s : State} {i : Instr} (h : stoppable i = false ∨ s.ended = false) :
    s.perform i = s.effect i := by
  obtain h | h := h <;> simp [State.perform, h]

/-! ### The turns of two agents with enabled steps -/

/-- A command that is neither discarded nor held, with the pointer at a slot. -/
theorem exec_perform {s : State} {i : Instr} (herr : s.errc = none) (hh : s.holds i = false)
    (hptr : s.wrPtr.toNat < s.cfg.bufCap) : exec i s = .next (s.perform i) := by
  by_cases hstop : stoppable i = true ∧ s.ended = true
  · obtain ⟨hi, hend⟩ := hstop
    rw [State.perform_stopped hi hend, exec_stopped herr hi hend]
  have hrun : stoppable i = false ∨ s.ended = false := by
    rwa [not_and_or, Bool.not_eq_true, Bool.not_eq_true] at hstop
  rw [State.perform_running hrun]
  cases i with
  | mod dev =>
    obtain ⟨heos, hsfail⟩ := s.ended_eq_false_iff.mp (hrun.resolve_left (by simp [stoppable]))
    refine exec_mod_running dev herr heos hsfail (Bool.eq_false_iff.mpr fun hown => ?_) hptr
    exact absurd (hh.symm.trans ((s.holds_iff _).mpr ⟨herr, ⟨dev, rfl⟩, heos, hsfail, hown⟩)) Bool.false_ne_true
  | ldkl v => exact exec_ldkl_running v herr
  | ldkh v => exact exec_ldkh_running v herr
  | clrph => exact exec_clrph_running herr
  | flush =>
    obtain ⟨heos, hsfail⟩ := s.ended_eq_false_iff.mp (hrun.resolve_left (by simp [stoppable]))
    exact exec_flush_running herr heos hsfail

/-- The command agent's turn with a word that is not held, with the pointer at a slot. -/
theorem step_obey {s : State} {w : Word} (hpres : s.presents w) (hfree : ¬ s.headHeld)
    (hptr : s.wrPtr.toNat < s.cfg.bufCap) : step s = .next (s.acceptWord.obey w) := by
  by_cases herr : s.errc = none
  · cases hd : decode w with
    | illegal c => rw [step_illegal hpres herr hd, State.obey_illegal (s := s.acceptWord) herr hd]
    | ok i =>
      have hh : s.holds i = false := Bool.eq_false_iff.mpr fun hh => hfree ⟨w, i, hpres.2, hd, hh⟩
      rw [step_command hpres herr hd hh, exec_perform (s := s.acceptWord) herr hh hptr,
        State.obey_ok (s := s.acceptWord) herr hd]
  · rw [step_discards hpres herr, State.obey_faulted (s := s.acceptWord) w herr]

/-- An operation of the sink is enabled: a read only of a slot of a buffer the sink holds (43_sink_port.md R121). -/
def State.Enabled (s : State) (op : SinkOp) : Prop :=
  ∀ slot, op = .rd slot → s.own = true ∧ slot.toNat < s.cfg.bufCap

/-- The sink agent's turn with an enabled operation. -/
theorem step_answer {s : State} {op : SinkOp} (hreq : s.requests op) (hen : s.Enabled op) :
    step s = .next (s.acceptSink.answer op) := by
  cases op with
  | rd slot =>
    obtain ⟨hown, hslot⟩ := hen slot rfl
    exact step_read hreq hown hslot
  | rel ok => exact step_release hreq

/-! ### What commutes with a word's effect -/

/-- A change of the state that leaves the conditions of a word's effect alone, and commutes with the fault action and with
the command's own effect where that comes, commutes with the word. -/
theorem State.obey_comm {f : State → State} {s : State} {w : Word} (herrc : (f s).errc = s.errc)
    (hend : s.errc = none → ∀ i, decode w = .ok i → stoppable i = true → (f s).ended = s.ended)
    (hraise : ∀ c v, (f s).raise c v = f (s.raise c v))
    (heffect : s.errc = none → ∀ i, decode w = .ok i → (stoppable i = false ∨ s.ended = false) →
      (f s).effect i = f (s.effect i)) : (f s).obey w = f (s.obey w) := by
  by_cases herr : s.errc = none
  · have herr' := herrc.trans herr
    cases hd : decode w with
    | illegal c => rw [State.obey_illegal herr hd, State.obey_illegal herr' hd, hraise]
    | ok i =>
      rw [State.obey_ok herr hd, State.obey_ok herr' hd]
      by_cases hstop : stoppable i = true ∧ s.ended = true
      · obtain ⟨hi, hended⟩ := hstop
        rw [State.perform_stopped hi hended, State.perform_stopped hi ((hend herr i hd hi).trans hended), hraise]
      · rw [not_and_or, Bool.not_eq_true, Bool.not_eq_true] at hstop
        have hstop' : stoppable i = false ∨ (f s).ended = false := by
          obtain hi | hi := Bool.eq_false_or_eq_true (stoppable i)
          · exact .inr ((hend herr i hd hi).trans (hstop.resolve_left (by simp [hi])))
          · exact .inl hi
        rw [State.perform_running hstop, State.perform_running hstop', heffect herr i hd hstop]
  · rw [State.obey_faulted w herr, State.obey_faulted w (herrc ▸ herr)]

/-- `s` with other ports and turns: nothing of CPFM. -/
def State.withPorts (ws : List Word) (ops : List SinkOp) (ts : List Agent) (s : State) : State :=
  { s with cmd := ws, sink := ops, turns := ts }

/-- `s` with other answers behind it: nothing of CPFM. -/
def State.withReplies (rs : List (Count × Word)) (s : State) : State := { s with replies := rs }

theorem State.obey_withPorts (s : State) (w : Word) (ws : List Word) (ops : List SinkOp) (ts : List Agent) :
    (s.withPorts ws ops ts).obey w = (s.obey w).withPorts ws ops ts :=
  State.obey_comm (f := State.withPorts ws ops ts) rfl (fun _ _ _ _ => rfl) (fun _ _ => rfl)
    fun _ i _ _ => by cases i <;> rfl

theorem State.obey_withReplies (s : State) (w : Word) (rs : List (Count × Word)) :
    (s.withReplies rs).obey w = (s.obey w).withReplies rs :=
  State.obey_comm (f := State.withReplies rs) rfl (fun _ _ _ _ => rfl) (fun _ _ => rfl)
    fun _ i _ _ => by cases i <;> rfl

theorem State.answer_withPorts (s : State) (op : SinkOp) (ws : List Word) (ops : List SinkOp) (ts : List Agent) :
    (s.withPorts ws ops ts).answer op = (s.answer op).withPorts ws ops ts := by
  cases op <;> rfl

/-- The answers are not the word's to change. -/
theorem State.obey_replies (s : State) (w : Word) : (s.obey w).replies = s.replies := by
  have h := congrArg State.replies (State.obey_withReplies s w s.replies)
  exact h

/-- Under the invariants a word that is not held leaves the buffer that the sink holds alone. -/
theorem State.Inv.obey_of_own {s : State} {w : Word} (h : s.Inv) (hown : s.own = true)
    (hfree : ∀ i, decode w = .ok i → s.holds i = false) :
    (s.obey w).buf = s.buf ∧ (s.obey w).own = true := by
  by_cases herr : s.errc = none
  · cases hd : decode w with
    | illegal c => rw [State.obey_illegal herr hd]; exact ⟨rfl, hown⟩
    | ok i =>
      rw [State.obey_ok herr hd]
      by_cases hstop : stoppable i = true ∧ s.ended = true
      · rw [State.perform_stopped hstop.1 hstop.2]; exact ⟨rfl, hown⟩
      rw [not_and_or, Bool.not_eq_true, Bool.not_eq_true] at hstop
      rw [State.perform_running hstop]
      cases i with
      | mod dev =>
        obtain ⟨heos, hsfail⟩ := s.ended_eq_false_iff.mp (hstop.resolve_left (by simp [stoppable]))
        have hh := (s.holds_iff (.mod dev)).mpr ⟨herr, ⟨dev, rfl⟩, heos, hsfail, hown⟩
        exact absurd ((hfree _ hd).symm.trans hh) Bool.false_ne_true
      | flush =>
        have hempty : s.effect .flush = { s with eos := true } := State.endStream_of_empty (h.owned_pointer hown)
        rw [hempty]
        exact ⟨rfl, hown⟩
      | ldkl | ldkh | clrph => exact ⟨rfl, hown⟩
  · rw [State.obey_faulted w herr]
    exact ⟨rfl, hown⟩

/-- No word resets the block or changes the configuration. -/
theorem State.obey_fixed (s : State) (w : Word) : (s.obey w).epoch = s.epoch ∧ (s.obey w).cfg = s.cfg := by
  unfold State.obey State.perform
  split
  · exact ⟨rfl, rfl⟩
  · split
    · exact ⟨rfl, rfl⟩
    · next i _ =>
      split
      · exact ⟨rfl, rfl⟩
      · cases i <;> exact ⟨rfl, rfl⟩

/-- An acknowledged read commutes with a word that is not held. -/
theorem State.Inv.obey_reply {s : State} {w : Word} (h : s.Inv) (hown : s.own = true)
    (hfree : ∀ i, decode w = .ok i → s.holds i = false) (slot : Count) :
    (s.reply slot).obey w = (s.obey w).reply slot := by
  obtain ⟨hbuf, -⟩ := h.obey_of_own hown hfree
  have hvalue : (s.obey w).slotValue slot.toNat = s.slotValue slot.toNat :=
    State.slotValue_congr fun _ _ _ => State.bufByte_congr (by rw [hbuf]) (s.obey_fixed w).1
  have hreply : (s.obey w).reply slot = (s.obey w).withReplies (s.replies ++ [(slot, s.slotValue slot.toNat)]) := by
    rw [State.reply, hvalue, State.obey_replies]
    rfl
  rw [hreply, ← State.obey_withReplies]
  rfl

/-- A release of a buffer the sink holds commutes with a word that is not held, but for a failing release beside a `FLUSH`
that would run (log entry 15). -/
theorem State.Inv.obey_release {s : State} {w : Word} (h : s.Inv) (hown : s.own = true)
    (hfree : ∀ i, decode w = .ok i → s.holds i = false) {ok : Bool}
    (hflush : ¬ (ok = false ∧ decode w = .ok .flush ∧ s.errc = none ∧ s.ended = false)) :
    (s.release ok).obey w = (s.obey w).release ok := by
  have running (herr : s.errc = none) {i : Instr} (hd : decode w = .ok i) (hi : stoppable i = true)
      (hend : s.ended = false) : i = .flush ∧ ok = true := by
    obtain ⟨heos, hsfail⟩ := s.ended_eq_false_iff.mp hend
    obtain ⟨dev, rfl⟩ | rfl := (stoppable_iff i).mp hi
    · have hh := (s.holds_iff (.mod dev)).mpr ⟨herr, ⟨dev, rfl⟩, heos, hsfail, hown⟩
      exact absurd ((hfree _ hd).symm.trans hh) Bool.false_ne_true
    · exact ⟨rfl, Bool.eq_true_of_not_eq_false fun hok => hflush ⟨hok, hd, herr, hend⟩⟩
  refine State.obey_comm (f := fun u => u.release ok) rfl (fun herr i hd hi => ?ended) (fun _ _ => rfl)
    fun herr i hd hrun => ?effect
  case ended =>
    obtain hend | hend := Bool.eq_false_or_eq_true s.ended
    · rw [hend, State.ended_eq_true_iff]
      exact (s.ended_eq_true_iff.mp hend).imp_right fun hsfail => by simp [hsfail]
    · obtain ⟨-, rfl⟩ := running herr hd hi hend
      simp [State.ended]
  case effect =>
    cases i with
    | mod dev =>
      obtain ⟨hi, -⟩ := running herr hd rfl (hrun.resolve_left (by simp [stoppable]))
      cases hi
    | flush =>
      have hw := h.owned_pointer hown
      have hempty : s.effect .flush = { s with eos := true } := State.endStream_of_empty hw
      have hempty' : (s.release ok).effect .flush = { s.release ok with eos := true } :=
        State.endStream_of_empty (s := s.release ok) hw
      rw [hempty, hempty']
      rfl
    | ldkl | ldkh | clrph => rfl

/-- An enabled operation of the sink commutes with a word that is not held, but for the two cases of
43_sink_port.md R124 a and log entry 15. -/
theorem State.Inv.obey_answer {s : State} {w : Word} {op : SinkOp} (h : s.Inv) (hen : s.Enabled op)
    (hfree : ∀ i, decode w = .ok i → s.holds i = false)
    (hover : (∃ ok, op = .rel ok) → s.own = false → (s.obey w).own = false)
    (hflush : ¬ (op = .rel false ∧ s.own = true ∧ decode w = .ok .flush ∧ s.errc = none ∧ s.ended = false)) :
    (s.answer op).obey w = (s.obey w).answer op := by
  cases op with
  | rd slot => exact h.obey_reply (hen slot rfl).1 hfree slot
  | rel ok =>
    obtain hown | hown := Bool.eq_false_or_eq_true s.own
    · exact h.obey_release hown hfree fun ⟨hok, hd, hrun⟩ => hflush ⟨by rw [hok], hown, hd, hrun⟩
    · rw [State.answer, State.answer, State.release_of_not_own ok hown,
        State.release_of_not_own ok (hover ⟨ok, rfl⟩ hown)]

/-! ### The two orders -/

/-- Two turns, first the command agent's and then the sink's. -/
theorem runSteps_command_sink {s : State} {w : Word} {op : SinkOp} (h : s.Inv) (hcmd : s.cmd.head? = some w)
    (hsink : s.sink.head? = some op) (hfree : ¬ s.headHeld) (hen : (s.obey w).Enabled op) :
    runSteps 2 (s.withPorts s.cmd s.sink [.command, .sink]) =
      .next (((s.obey w).answer op).withPorts s.cmd.tail s.sink.tail []) := by
  have first := step_obey (s := s.withPorts s.cmd s.sink [.command, .sink]) ⟨rfl, hcmd⟩ hfree h.pointer
  have accepted : (s.withPorts s.cmd s.sink [.command, .sink]).acceptWord = s.withPorts s.cmd.tail s.sink [.sink] := rfl
  rw [accepted, State.obey_withPorts] at first
  have second := step_answer (s := (s.obey w).withPorts s.cmd.tail s.sink [.sink]) ⟨rfl, hsink⟩ hen
  have performed : ((s.obey w).withPorts s.cmd.tail s.sink [.sink]).acceptSink =
      (s.obey w).withPorts s.cmd.tail s.sink.tail [] := rfl
  rw [performed, State.answer_withPorts] at second
  exact (runSteps_succ_next 1 first).trans (runSteps_succ_next 0 second)

/-- An operation of the sink holds no word that was free before. -/
theorem State.not_headHeld_answer {s : State} (op : SinkOp) (ops : List SinkOp) (ts : List Agent) (h : ¬ s.headHeld) :
    ¬ ((s.answer op).withPorts s.cmd ops ts).headHeld := by
  rintro ⟨w, i, hw, hd, hh⟩
  obtain ⟨herr, hmod, heos, hsfail, hown⟩ := (State.holds_iff _ i).mp hh
  cases op with
  | rd slot => exact h ⟨w, i, hw, hd, (s.holds_iff i).mpr ⟨herr, hmod, heos, hsfail, hown⟩⟩
  | rel ok => exact absurd hown Bool.false_ne_true

/-- Two turns, first the sink's and then the command agent's. -/
theorem runSteps_sink_command {s : State} {w : Word} {op : SinkOp} (h : s.Inv) (hcmd : s.cmd.head? = some w)
    (hsink : s.sink.head? = some op) (hfree : ¬ s.headHeld) (hen : s.Enabled op) :
    runSteps 2 (s.withPorts s.cmd s.sink [.sink, .command]) =
      .next (((s.answer op).obey w).withPorts s.cmd.tail s.sink.tail []) := by
  have first := step_answer (s := s.withPorts s.cmd s.sink [.sink, .command]) ⟨rfl, hsink⟩ hen
  have performed : (s.withPorts s.cmd s.sink [.sink, .command]).acceptSink =
      s.withPorts s.cmd s.sink.tail [.command] := rfl
  rw [performed, State.answer_withPorts] at first
  have hptr : (s.answer op).wrPtr.toNat < (s.answer op).cfg.bufCap := by cases op <;> exact h.pointer
  have second := step_obey (s := (s.answer op).withPorts s.cmd s.sink.tail [.command]) ⟨rfl, hcmd⟩
    (State.not_headHeld_answer op _ _ hfree) hptr
  have accepted : ((s.answer op).withPorts s.cmd s.sink.tail [.command]).acceptWord =
      (s.answer op).withPorts s.cmd.tail s.sink.tail [] := rfl
  rw [accepted, State.obey_withPorts] at second
  exact (runSteps_succ_next 1 first).trans (runSteps_succ_next 0 second)

/-- A word whose turn hands nothing over leaves a buffer the command agent owns with it. -/
theorem State.obey_own_of_handedOver {s : State} {w : Word} {ts : List Agent} (h : s.Inv) (hcmd : s.cmd.head? = some w)
    (hfree : ¬ s.headHeld) (hown : s.own = false)
    (hnone : (s.withPorts s.cmd s.sink (.command :: ts)).handedOver = []) : (s.obey w).own = false := by
  have hstep := step_obey (s := s.withPorts s.cmd s.sink (.command :: ts)) ⟨rfl, hcmd⟩ hfree h.pointer
  have accepted : (s.withPorts s.cmd s.sink (.command :: ts)).acceptWord = s.withPorts s.cmd.tail s.sink ts := rfl
  rw [accepted, State.obey_withPorts] at hstep
  rw [State.handedOver, hstep] at hnone
  by_contra hover
  have hrise : (!(s.withPorts s.cmd s.sink (.command :: ts)).own &&
      ((s.obey w).withPorts s.cmd.tail s.sink ts).own) = true :=
    (Bool.and_eq_true _ _).mpr ⟨(Bool.not_eq_true' _).mpr hown, Bool.eq_true_of_not_eq_false hover⟩
  simp only [hrise, if_true] at hnone
  cases hnone

end Sys2Proof.Machine
end

section
/-! CERTIFICATES. Two agents' steps in either order (60_exceptions.md section 5). -/

namespace Sys2Proof.Machine

/-- Settles O34: both orders as effects, which commute. -/
theorem agentStepsCommute : Obligations.AgentStepsCommute := by
  intro s w op hinv hcmd hsink hfree hen hover hflush
  have hheld (i : Instr) (hd : decode w = .ok i) : s.holds i = false :=
    Bool.eq_false_iff.mpr fun hh => hfree ⟨w, i, hcmd, hd, hh⟩
  have hen' : (s.obey w).Enabled op := fun slot hop => by
    obtain ⟨hown, hslot⟩ := hen slot hop
    exact ⟨(hinv.obey_of_own hown hheld).2, (s.obey_fixed w).2 ▸ hslot⟩
  have hcommute : (s.answer op).obey w = (s.obey w).answer op :=
    hinv.obey_answer hen hheld
      (fun hop hown => State.obey_own_of_handedOver hinv hcmd hfree hown (hover hop hown))
      fun ⟨hop, hown, hd, herr, hend⟩ => hflush ⟨hop, hown, hd, herr, s.ended_eq_false_iff.mp hend⟩
  calc runSteps 2 { s with turns := [.command, .sink] }
    _ = .next (((s.obey w).answer op).withPorts s.cmd.tail s.sink.tail []) :=
      runSteps_command_sink hinv hcmd hsink hfree hen'
    _ = .next (((s.answer op).obey w).withPorts s.cmd.tail s.sink.tail []) := by rw [hcommute]
    _ = runSteps 2 { s with turns := [.sink, .command] } := (runSteps_sink_command hinv hcmd hsink hfree hen).symm

end Sys2Proof.Machine
end

section
/-! SUPPORT. What a turn shows of the modulation: a turn executes a `MOD`, and then shows one increment and one sample, or
it shows none (40_modulate.md R86, R89). -/

namespace Sys2Proof.Machine

theorem State.increment_of_mod {s : State} {dev : Int} (h : s.executed = some (.mod dev)) :
    s.increment = [phaseIncrement dev s.kscale] := by
  simp [State.increment, h]

theorem State.sampleWritten_of_mod {s : State} {dev : Int} (h : s.executed = some (.mod dev)) :
    s.sampleWritten = [(s.wrPtr, samplePair s.cfg (tableIndex (nextPhase s.acc dev s.kscale)))] := by
  simp [State.sampleWritten, h]

/-- A turn that executes no `MOD` shows no increment and no sample. -/
theorem State.shows_nothing {s : State} (h : ∀ dev, s.executed ≠ some (.mod dev)) :
    s.increment = [] ∧ s.sampleWritten = [] := by
  constructor
  · unfold State.increment
    split
    · next dev he => exact absurd he (h dev)
    · rfl
  · unfold State.sampleWritten
    split
    · next dev he => exact absurd he (h dev)
    · rfl

/-- After the end of the stream, a failed push or a fault no `MOD` is executed. -/
theorem State.no_sample_of_ended {s : State} (h : s.ended = true ∨ s.errc ≠ none) (dev : Int) :
    s.executed ≠ some (.mod dev) := by
  intro he
  obtain ⟨herr, heos, hsfail, -⟩ := State.running_of_executed_mod he
  obtain hend | herr' := h
  · exact absurd ((s.ended_eq_false_iff.mpr ⟨heos, hsfail⟩).symm.trans hend) Bool.false_ne_true
  · exact herr' herr

/-- A turn executes a running `MOD`, and then its next state is the sample's, or it executes none. -/
theorem State.Turn.sample_or_not {s t : State} (h : s.Turn t) :
    (∃ dev, s.executed = some (.mod dev) ∧ s.wrPtr.toNat < s.cfg.bufCap ∧ t = s.acceptWord.modulate dev) ∨
      ∀ dev, s.executed ≠ some (.mod dev) := by
  have other {P : Prop} (ha : ∀ dev, s.action ≠ .command (.mod dev)) : P ∨ ∀ dev, s.executed ≠ some (.mod dev) :=
    .inr fun dev he => ha dev (State.action_of_executed he)
  cases h with
  | @samples dev ha _ hend _ hptr => exact .inl ⟨dev, State.executed_of_action ha (.inr hend), hptr, rfl⟩
  | stops _ _ _ hend => exact .inr (State.no_sample_of_ended (.inl hend))
  | passes ha => exact other fun dev hmod => by simp [hmod] at ha
  | discards ha | rejects ha | loadsLow ha | loadsHigh ha | clears ha | ends ha | reads ha | releases ha | resets ha =>
    exact other fun dev hmod => by simp [hmod] at ha

end Sys2Proof.Machine
end

section
/-! SUPPORT. The accumulator along runs as a sum modulo 2^48 (40_modulate.md R86), and its table index (R87). -/

namespace Sys2Proof.Machine

/-- A turn without a clear or a reset moves the accumulator by the increment it shows. -/
theorem step_accumulates {s t : State} (h : step s = .next t) (hreset : s.action ≠ .reset)
    (hclrph : s.executed ≠ some .clrph) :
    (t.acc.toNat : Int) = ((s.acc.toNat : Int) + s.increment.sum) % 2 ^ 48 := by
  obtain ⟨dev, he, -, rfl⟩ | hnone := (step_turn h).sample_or_not
  · rw [State.increment_of_mod he, List.sum_singleton]
    exact nextPhase_toNat s.acc dev s.kscale
  · obtain ⟨hinc, -⟩ := State.shows_nothing hnone
    have hsame : t.acc = s.acc := by
      obtain hsame | ⟨dev, he, -⟩ | ⟨he, -⟩ | ⟨ha, -⟩ := step_acc_cases h
      · exact hsame
      · exact absurd he (hnone dev)
      · exact absurd he hclrph
      · exact absurd ha hreset
    have hlt := s.acc.isLt
    rw [hsame, hinc, List.sum_nil]
    omega

theorem executedIn_succ_next (k : Nat) {s t : State} (h : step s = .next t) :
    executedIn (k + 1) s = s.executed.toList ++ executedIn k t := collect_succ_next _ _ h

theorem incrementsIn_succ_next (k : Nat) {s t : State} (h : step s = .next t) :
    incrementsIn (k + 1) s = s.increment ++ incrementsIn k t := collect_succ_next _ _ h

/-- What a run does not execute is not executed in its first turn, nor in the others. -/
theorem not_mem_executedIn_succ {k : Nat} {s t : State} {i : Instr} (hstep : step s = .next t)
    (h : i ∉ executedIn (k + 1) s) : s.executed ≠ some i ∧ i ∉ executedIn k t := by
  rw [executedIn_succ_next k hstep, List.mem_append, not_or, Option.mem_toList] at h
  exact h

/-- A run without a clear or a reset moves the accumulator by the sum of its increments (40_modulate.md R86). -/
theorem runSteps_accumulates {k : Nat} {s t : State} (hrun : runSteps k s = .next t)
    (hreset : Action.reset ∉ actionsIn k s) (hclrph : Instr.clrph ∉ executedIn k s) :
    (t.acc.toNat : Int) = ((s.acc.toNat : Int) + (incrementsIn k s).sum) % 2 ^ 48 := by
  induction k generalizing s with
  | zero =>
    cases hrun
    have hlt := t.acc.isLt
    rw [incrementsIn, collect_zero, List.sum_nil]
    omega
  | succ k ih =>
    obtain ⟨u, hstep, hrest⟩ := runSteps_succ_inv hrun
    obtain ⟨hreset, hreset'⟩ := not_mem_actionsIn_succ hstep hreset
    obtain ⟨hclrph, hclrph'⟩ := not_mem_executedIn_succ hstep hclrph
    have hfirst := step_accumulates hstep hreset hclrph
    rw [ih hrest hreset' hclrph', hfirst, incrementsIn_succ_next k hstep, List.sum_append, Int.emod_add_emod, add_assoc]

/-- A turn that executes nothing but a `MOD`, and is no reset, keeps the tuning constant. -/
theorem step_kscale_of_mod {s t : State} (h : step s = .next t) (hreset : s.action ≠ .reset)
    (hmod : ∀ i, s.executed = some i → ∃ dev, i = .mod dev) : t.kscale = s.kscale := by
  obtain hsame | ha | ⟨v, ha, -⟩ | ⟨v, ha, -⟩ := step_kscale_cases h
  · exact hsame
  · exact absurd ha hreset
  · obtain ⟨dev, hi⟩ := hmod _ (State.executed_of_action ha (.inl rfl))
    cases hi
  · obtain ⟨dev, hi⟩ := hmod _ (State.executed_of_action ha (.inl rfl))
    cases hi

/-- A run that executes nothing but `MOD`s has the increments of their deviations with the one constant. -/
theorem incrementsIn_of_mods {k : Nat} {s t : State} {devs : List Int} (hrun : runSteps k s = .next t)
    (hreset : Action.reset ∉ actionsIn k s) (hmods : executedIn k s = devs.map Instr.mod) :
    incrementsIn k s = devs.map fun dev => phaseIncrement dev s.kscale := by
  induction k generalizing s devs with
  | zero =>
    rw [executedIn, collect_zero] at hmods
    rw [List.map_eq_nil_iff.mp hmods.symm]
    rfl
  | succ k ih =>
    obtain ⟨u, hstep, hrest⟩ := runSteps_succ_inv hrun
    obtain ⟨hreset, hreset'⟩ := not_mem_actionsIn_succ hstep hreset
    rw [executedIn_succ_next k hstep] at hmods
    obtain ⟨first, later, rfl, hfirst, hlater⟩ := List.append_eq_map_iff.mp hmods
    have hk : u.kscale = s.kscale := step_kscale_of_mod hstep hreset fun i hi => by
      rw [hi] at hfirst
      obtain ⟨dev, -, hdev⟩ := List.mem_map.mp (hfirst.symm ▸ List.mem_singleton.mpr rfl : i ∈ first.map Instr.mod)
      exact ⟨dev, hdev.symm⟩
    have hshow : s.increment = first.map fun dev => phaseIncrement dev s.kscale := by
      cases he : s.executed with
      | none =>
        rw [he] at hfirst
        rw [(State.shows_nothing fun dev => by simp [he]).1, List.map_eq_nil_iff.mp hfirst]
        rfl
      | some i =>
        rw [he, Option.toList_some] at hfirst
        obtain ⟨dev, rfl, rfl⟩ := List.map_eq_singleton_iff.mp hfirst
        exact State.increment_of_mod he
    rw [incrementsIn_succ_next k hstep, hshow, ih hrest hreset' hlater.symm, hk, List.map_append]

/-- The index moves by the truncated increment, or by one more where the lower bits carry (40_modulate.md R87). -/
theorem tableIndex_sub {a b : Phase} {inc : Int} {q : Nat} (hb : (b.toNat : Int) = ((a.toNat : Int) + inc) % 2 ^ 48)
    (hq : (q : Int) = (inc % 2 ^ 48) / 2 ^ 38) :
    tableIndex b - tableIndex a = BitVec.ofNat 10 q ∨ tableIndex b - tableIndex a = BitVec.ofNat 10 (q + 1) := by
  have hia := tableIndex_toNat a
  have hib := tableIndex_toNat b
  have ha := a.isLt
  have hdiff : (tableIndex b - tableIndex a).toNat = q % 1024 ∨ (tableIndex b - tableIndex a).toNat = (q + 1) % 1024 := by
    rw [BitVec.toNat_sub, hia, hib]
    omega
  obtain h | h := hdiff
  · exact .inl (BitVec.eq_of_toNat_eq (by rw [h, BitVec.toNat_ofNat]))
  · exact .inr (BitVec.eq_of_toNat_eq (by rw [h, BitVec.toNat_ofNat]))

end Sys2Proof.Machine
end

section
/-! CERTIFICATES. The phase along runs (40_modulate.md section 5). -/

namespace Sys2Proof.Machine

/-- Settles O43: the sum of the increments, and the increments of a run of `MOD`s under one constant. -/
theorem exactAccumulation : Obligations.ExactAccumulation := by
  refine ⟨fun k s t => runSteps_accumulates, fun k s t devs hrun hreset hmods hacc => ?_⟩
  have hclrph : Instr.clrph ∉ executedIn k s := by simp [hmods]
  have hinc : (incrementsIn k s).sum = (s.kscale.toNat : Int) * devs.sum := by
    rw [incrementsIn_of_mods hrun hreset hmods, mul_comm]
    simp only [phaseIncrement, List.sum_map_mul_right, List.map_id']
  rw [runSteps_accumulates hrun hreset hclrph, hinc, hacc]
  simp

/-- Settles O44: one increment along the run, and the index of the accumulator it leads to. -/
theorem phaseContinuity : Obligations.PhaseContinuity := by
  intro k s t inc hrun hreset hclrph hinc q hq
  have hacc := runSteps_accumulates hrun hreset hclrph
  rw [hinc, List.sum_singleton] at hacc
  exact tableIndex_sub hacc hq

end Sys2Proof.Machine
end

section
/-! SUPPORT. The samples that the words to come stand for, whatever the sink does: what every run writes is an initial part
of them (40_modulate.md R89). -/

namespace Sys2Proof.Machine

/-- The samples of a list of words, from an accumulator, a tuning constant and a pointer, with a sink that never fails and
never keeps the buffer: up to the first word that is no command, or the end of the stream. -/
def replayFrom (c : Config) : List Word → Phase → Word → Count → List (Count × Word)
  | [], _, _, _ => []
  | w :: ws, a, k, p =>
    match decode w with
    | .illegal _ => []
    | .ok (.mod dev) =>
      (p, samplePair c (tableIndex (nextPhase a dev k))) ::
        replayFrom c ws (nextPhase a dev k) k (if decide (p.toNat + 1 = c.bufCap) then 0 else p + 1)
    | .ok (.ldkl v) => replayFrom c ws a (withLowHalf k v) p
    | .ok (.ldkh v) => replayFrom c ws a (withHighHalf k v) p
    | .ok .clrph => replayFrom c ws 0 k p
    | .ok .flush => []

/-- The samples to come in a state. -/
def State.replay (s : State) : List (Count × Word) :=
  if s.errc = none ∧ s.eos = false then replayFrom s.cfg s.cmd s.acc s.kscale s.wrPtr else []

theorem State.replay_running {s : State} (herr : s.errc = none) (heos : s.eos = false) :
    s.replay = replayFrom s.cfg s.cmd s.acc s.kscale s.wrPtr := if_pos ⟨herr, heos⟩

theorem State.replay_silent {s : State} (h : s.errc ≠ none ∨ s.eos = true) : s.replay = [] :=
  if_neg fun ⟨herr, heos⟩ => h.elim (· herr) fun heos' => Bool.false_ne_true (heos.symm.trans heos')

/-- The samples to come depend on seven fields. -/
theorem State.replay_congr {s t : State} (hcfg : t.cfg = s.cfg) (hacc : t.acc = s.acc) (hk : t.kscale = s.kscale)
    (hptr : t.wrPtr = s.wrPtr) (heos : t.eos = s.eos) (herr : t.errc = s.errc) (hcmd : t.cmd = s.cmd) :
    t.replay = s.replay := by
  rw [State.replay, State.replay, hcfg, hacc, hk, hptr, heos, herr, hcmd]

/-- An accepted command is the first of the words to come. -/
theorem State.cmd_of_command {s : State} {i : Instr} (h : s.action = .command i) :
    ∃ w, s.cmd = w :: s.cmd.tail ∧ decode w = .ok i := by
  obtain ⟨w, ⟨-, hhead⟩, -, hd, -⟩ := State.presented_of_command h
  obtain ⟨ws, hws⟩ := List.head?_eq_some_iff.mp hhead
  exact ⟨w, by rw [hws, List.tail_cons], hd⟩

/-- An executed `MOD` writes the first of the samples to come, also where its pointer is no slot. -/
theorem State.replay_of_mod {s : State} {dev : Int} (h : s.executed = some (.mod dev)) :
    s.replay = s.sampleWritten ++ (s.acceptWord.modulate dev).replay := by
  obtain ⟨herr, heos, -, -⟩ := State.running_of_executed_mod h
  obtain ⟨w, hcmd, hd⟩ := State.cmd_of_command (State.action_of_executed h)
  rw [State.replay_running herr heos, State.replay_running (s := s.acceptWord.modulate dev) herr heos,
    State.sampleWritten_of_mod h, hcmd, replayFrom, hd]
  rfl

/-- A load or a clear is the first of the words to come, and the samples after it come from its effect. -/
theorem State.replay_of_other {s : State} {i : Instr} (h : s.action = .command i) (herr : s.errc = none)
    (hi : stoppable i = false) : s.replay = (s.acceptWord.effect i).replay := by
  obtain ⟨w, hcmd, hd⟩ := State.cmd_of_command h
  by_cases heos : s.eos = true
  · rw [State.replay_silent (.inr heos), State.replay_silent]
    cases i with
    | mod | flush => cases hi
    | ldkl | ldkh | clrph => exact .inr heos
  · have heos := Bool.eq_false_of_not_eq_true heos
    rw [State.replay_running herr heos, hcmd, replayFrom, hd]
    cases i with
    | mod | flush => cases hi
    | ldkl v => exact (State.replay_running (s := s.acceptWord.setScale (withLowHalf s.kscale v)) herr heos).symm
    | ldkh v => exact (State.replay_running (s := s.acceptWord.setScale (withHighHalf s.kscale v)) herr heos).symm
    | clrph => exact (State.replay_running (s := s.acceptWord.setPhase 0) herr heos).symm

/-- A turn without a reset shows the first of the samples to come, or none, and leaves others of them at most. -/
theorem State.Turn.replay_prefix {s t : State} (h : s.Turn t) (hreset : s.action ≠ .reset) :
    s.sampleWritten ++ t.replay <+: s.replay := by
  obtain ⟨dev, he, -, rfl⟩ | hnone := h.sample_or_not
  · rw [State.replay_of_mod he]
  obtain ⟨-, hshow⟩ := State.shows_nothing hnone
  rw [hshow, List.nil_append]
  have silent (hs : t.errc ≠ none ∨ t.eos = true) : t.replay <+: s.replay := by
    rw [State.replay_silent hs]
    exact List.nil_prefix
  have same (hs : t.replay = s.replay) : t.replay <+: s.replay := hs ▸ List.prefix_rfl
  cases h with
  | resets ha => exact absurd ha hreset
  | discards _ _ herr => exact silent (.inl herr)
  | rejects _ _ herr => exact silent (.inl (by simp [herr]))
  | stops _ herr => exact silent (.inl (by simp [herr]))
  | samples ha _ hend => exact absurd (State.executed_of_action ha (.inr hend)) (hnone _)
  | ends => exact silent (.inr rfl)
  | loadsLow ha herr => exact same (State.replay_of_other ha herr rfl).symm
  | loadsHigh ha herr => exact same (State.replay_of_other ha herr rfl).symm
  | clears ha herr => exact same (State.replay_of_other ha herr rfl).symm
  | passes | reads | releases => exact same (State.replay_congr rfl rfl rfl rfl rfl rfl rfl)

/-- What a turn shows is an initial part of the samples to come, also where it stops the machine. -/
theorem State.sampleWritten_prefix (s : State) : s.sampleWritten <+: s.replay := by
  by_cases hmod : ∃ dev, s.executed = some (.mod dev)
  · obtain ⟨dev, he⟩ := hmod
    rw [State.replay_of_mod he]
    exact List.prefix_append _ _
  · rw [(State.shows_nothing fun dev he => hmod ⟨dev, he⟩).2]
    exact List.nil_prefix

/-- What a run without a reset writes is an initial part of the samples to come (40_modulate.md R89). -/
theorem samplesIn_prefix (k : Nat) {s : State} (hreset : Action.reset ∉ actionsIn k s) : samplesIn k s <+: s.replay := by
  induction k generalizing s with
  | zero => exact List.nil_prefix
  | succ k ih =>
    obtain ⟨t, hstep⟩ | ⟨hstep, -⟩ := step_answers s
    · obtain ⟨hreset, hreset'⟩ := not_mem_actionsIn_succ hstep hreset
      have hshow : samplesIn (k + 1) s = s.sampleWritten ++ samplesIn k t := collect_succ_next _ _ hstep
      rw [hshow]
      exact ((List.prefix_append_right_inj _).mpr (ih hreset')).trans ((step_turn hstep).replay_prefix hreset)
    · have hshow : samplesIn (k + 1) s = s.sampleWritten := by simp [samplesIn, collect, hstep]
      rw [hshow]
      exact s.sampleWritten_prefix

end Sys2Proof.Machine
end

section
/-! CERTIFICATES. Deterministic replay (40_modulate.md section 5). -/

namespace Sys2Proof.Machine

/-- Settles O45: both runs write initial parts of the same samples to come. -/
theorem replayIsDeterministic : Obligations.ReplayIsDeterministic := by
  intro s r m n hcfg hacc hk hptr heos herr hcmd hreset hreset'
  have hs := samplesIn_prefix m hreset
  rw [State.replay_congr hcfg hacc hk hptr heos herr hcmd] at hs
  exact List.prefix_or_prefix_of_prefix hs (samplesIn_prefix n hreset')

end Sys2Proof.Machine
end

section
/-! SUPPORT. A turn as the fill sees it: one sample more, the end of the stream, or nothing; and what a turn shows of a
hand-over (42_stream_control.md section 2). -/

namespace Sys2Proof.Machine

/-! ### The three ways of a turn with the fill -/

/-- The turn writes no sample and leaves the buffer, the pointer and the count alone; at most it gives the buffer back. -/
structure State.FillUntouched (s t : State) : Prop where
  noSample : ∀ dev, s.executed ≠ some (.mod dev)
  cfg : t.cfg = s.cfg
  buf : t.buf = s.buf
  epoch : t.epoch = s.epoch
  wrPtr : t.wrPtr = s.wrPtr
  vcnt : t.vcnt = s.vcnt
  own : t.own = s.own ∨ t.own = false

/-- What a turn without a reset does to the fill. -/
theorem State.Turn.fill_cases {s t : State} (h : s.Turn t) (hreset : s.action ≠ .reset) :
    (∃ dev, s.executed = some (.mod dev) ∧ s.wrPtr.toNat < s.cfg.bufCap ∧ t = s.acceptWord.modulate dev) ∨
      (s.executed = some .flush ∧ s.wrPtr ≠ 0 ∧ t = s.acceptWord.endStream) ∨ s.FillUntouched t := by
  obtain hsample | hnone := h.sample_or_not
  · exact .inl hsample
  right
  cases h with
  | resets ha => exact absurd ha hreset
  | samples ha _ hend => exact absurd (State.executed_of_action ha (.inr hend)) (hnone _)
  | ends ha _ hend =>
    by_cases hw : s.wrPtr = 0
    · rw [State.endStream_of_empty (s := s.acceptWord) hw]
      exact .inr ⟨hnone, rfl, rfl, rfl, rfl, rfl, .inl rfl⟩
    · exact .inl ⟨State.executed_of_action ha (.inr hend), hw, rfl⟩
  | releases => exact .inr ⟨hnone, rfl, rfl, rfl, rfl, rfl, .inr rfl⟩
  | passes | discards | rejects | stops | loadsLow | loadsHigh | clears | reads =>
    exact .inr ⟨hnone, rfl, rfl, rfl, rfl, rfl, .inl rfl⟩

/-! ### Hand-overs -/

/-- A turn in which `OWN` does not rise shows no hand-over. -/
theorem State.no_handOver {s t : State} (h : step s = .next t) (hown : s.own = true ∨ t.own = false) :
    s.handedOver = [] ∧ s.samplesHandedOver = [] := by
  rw [State.handedOver, State.samplesHandedOver, h]
  obtain hown | hown := hown <;> simp [hown]

/-- A turn in which `OWN` rises shows the buffer it hands over. -/
theorem State.handOver {s t : State} (h : step s = .next t) (hfree : s.own = false) (hover : t.own = true) :
    s.handedOver = [t.vcnt.toNat] ∧ s.samplesHandedOver = t.slotsBelow t.vcnt.toNat := by
  rw [State.handedOver, State.samplesHandedOver, h]
  simp [hfree, hover]

/-- A turn shows one hand-over at most. -/
theorem State.handedOver_dropLast {s t : State} (h : step s = .next t) : s.handedOver.dropLast = [] := by
  rw [State.handedOver, h]
  simp only
  split <;> rfl

/-- The hand-overs a turn shows, one by one. -/
theorem State.mem_handedOver {s t : State} (h : step s = .next t) {v : Nat} (hv : v ∈ s.handedOver) :
    s.own = false ∧ t.own = true ∧ v = t.vcnt.toNat := by
  obtain hown | hown := Bool.eq_false_or_eq_true s.own
  · rw [(State.no_handOver h (.inl hown)).1] at hv
    cases hv
  obtain hown' | hown' := Bool.eq_false_or_eq_true t.own
  · rw [(State.handOver h hown hown').1] at hv
    exact ⟨hown, hown', List.mem_singleton.mp hv⟩
  · rw [(State.no_handOver h (.inr hown')).1] at hv
    cases hv

/-- An untouched fill is not handed over. -/
theorem State.FillUntouched.shows_nothing {s t : State} (h : s.FillUntouched t) (hstep : step s = .next t) :
    s.handedOver = [] ∧ s.samplesHandedOver = [] := by
  refine State.no_handOver hstep ?_
  obtain hown | hown := h.own
  · obtain hfree | hfree := Bool.eq_false_or_eq_true s.own
    · exact .inl hfree
    · exact .inr (hown.trans hfree)
  · exact .inr hown

/-- A sample is written while the command agent has the buffer: in an inner slot of the fill, or in the last, which hands the
buffer over (40_modulate.md R84). -/
theorem State.modulate_fill {s : State} {dev : Int} (h : s.executed = some (.mod dev)) (hcap : s.cfg.capOk = true)
    (hptr : s.wrPtr.toNat < s.cfg.bufCap) :
    s.own = false ∧
      (((s.acceptWord.modulate dev).own = false ∧ s.wrPtr.toNat + 1 < s.cfg.bufCap ∧
          (s.acceptWord.modulate dev).wrPtr.toNat = s.wrPtr.toNat + 1) ∨
        ((s.acceptWord.modulate dev).own = true ∧ s.wrPtr.toNat + 1 = s.cfg.bufCap ∧
          (s.acceptWord.modulate dev).wrPtr = 0 ∧ (s.acceptWord.modulate dev).vcnt.toNat = s.cfg.bufCap)) := by
  obtain ⟨-, -, -, hown⟩ := State.running_of_executed_mod h
  refine ⟨hown, ?_⟩
  obtain hinner | hlast := Nat.lt_or_eq_of_le (Nat.succ_le_of_lt hptr)
  · obtain ⟨-, hmoved, hfree⟩ := State.modulate_innerSlot (s := s.acceptWord) dev hcap hown hinner
    exact .inl ⟨hfree, hinner, hmoved⟩
  · obtain ⟨hcnt, hzero, hover⟩ := State.modulate_lastSlot (s := s.acceptWord) dev hcap hlast
    exact .inr ⟨hover, hlast, hzero, hcnt⟩

/-- The end of the stream hands over a fill in progress. -/
theorem State.endStream_fill {s : State} (hw : s.wrPtr ≠ 0) :
    s.endStream.own = true ∧ s.endStream.wrPtr = 0 ∧ s.endStream.vcnt = s.wrPtr := by
  rw [State.endStream_of_partial hw]
  exact ⟨rfl, rfl, rfl⟩

end Sys2Proof.Machine
end

section
/-! SUPPORT. The count law (42_stream_control.md R113): samples counted turn by turn, full buffers, and how many buffers a
number of samples needs. -/

namespace Sys2Proof.Machine

/-- No turn loses a sample or makes one up. -/
theorem State.Inv.step_count {s t : State} (h : s.Inv) (hstep : step s = .next t) (hreset : s.action ≠ .reset) :
    s.wrPtr.toNat + s.increment.length = s.handedOver.sum + t.wrPtr.toNat := by
  obtain ⟨dev, he, hptr, rfl⟩ | ⟨he, hw, rfl⟩ | hquiet := (step_turn hstep).fill_cases hreset
  · rw [State.increment_of_mod he, List.length_singleton]
    obtain ⟨hown, ⟨hfree, -, hmoved⟩ | ⟨hover, hlast, hzero, hcnt⟩⟩ := State.modulate_fill he h.capOk hptr
    · rw [(State.no_handOver hstep (.inr hfree)).1, hmoved, List.sum_nil, Nat.zero_add]
    · rw [(State.handOver hstep hown hover).1, hzero, hcnt, List.sum_singleton, hlast]
      rfl
  · obtain ⟨hover, hzero, hcnt⟩ := State.endStream_fill (s := s.acceptWord) hw
    rw [(State.shows_nothing fun dev hmod => by simp [hmod] at he).1,
      (State.handOver hstep (h.not_own_of_fill hw) hover).1, hzero, hcnt, List.sum_singleton]
    rfl
  · rw [(State.shows_nothing hquiet.noSample).1, (hquiet.shows_nothing hstep).1, hquiet.wrPtr, List.length_nil,
      List.sum_nil, Nat.zero_add, Nat.add_zero]

/-- A buffer that is handed over is full, or the stream has ended with it. -/
theorem State.Inv.handedOver_full {s t : State} (h : s.Inv) (hstep : step s = .next t) (hreset : s.action ≠ .reset)
    {v : Nat} (hv : v ∈ s.handedOver) : v = s.cfg.bufCap ∨ t.eos = true := by
  obtain ⟨-, hover, rfl⟩ := State.mem_handedOver hstep hv
  obtain ⟨dev, he, hptr, rfl⟩ | ⟨-, -, rfl⟩ | hquiet := (step_turn hstep).fill_cases hreset
  · obtain ⟨-, ⟨hfree, -⟩ | ⟨-, -, -, hcnt⟩⟩ := State.modulate_fill he h.capOk hptr
    · exact absurd (hfree.symm.trans hover) Bool.false_ne_true
    · exact .inl hcnt
  · exact .inr rfl
  · rw [(hquiet.shows_nothing hstep).1] at hv
    cases hv

/-- A buffer that is handed over holds at least one sample and at most as many as it has slots. -/
theorem State.Inv.handedOver_bounds {s t : State} (h : s.Inv) (hstep : step s = .next t) {v : Nat}
    (hv : v ∈ s.handedOver) : 1 ≤ v ∧ v ≤ s.cfg.bufCap := by
  obtain ⟨-, hover, rfl⟩ := State.mem_handedOver hstep hv
  have hinv := h.turn (step_turn hstep)
  exact ⟨hinv.owned_count hover, (step_turn hstep).cfg_eq ▸ hinv.count⟩

/-- After the end of the stream nothing is handed over. -/
theorem State.no_handOver_of_eos {s t : State} (hstep : step s = .next t) (hreset : s.action ≠ .reset)
    (heos : s.eos = true) : s.handedOver = [] := by
  have hend : s.ended = true := s.ended_eq_true_iff.mpr (.inl heos)
  obtain ⟨dev, he, -⟩ | ⟨he, -⟩ | hquiet := (step_turn hstep).fill_cases hreset
  · exact absurd he (State.no_sample_of_ended (.inl hend) dev)
  · exact absurd ((State.not_ended_of_executed he rfl).symm.trans hend) Bool.false_ne_true
  · exact (hquiet.shows_nothing hstep).1

theorem handOversIn_succ_next (k : Nat) {s t : State} (h : step s = .next t) :
    handOversIn (k + 1) s = s.handedOver ++ handOversIn k t := collect_succ_next _ _ h

/-- After the end of the stream a run hands nothing over. -/
theorem handOversIn_of_eos {k : Nat} {s t : State} (hrun : runSteps k s = .next t) (hreset : Action.reset ∉ actionsIn k s)
    (heos : s.eos = true) : handOversIn k s = [] := by
  induction k generalizing s with
  | zero => rfl
  | succ k ih =>
    obtain ⟨u, hstep, hrest⟩ := runSteps_succ_inv hrun
    obtain ⟨hreset, hreset'⟩ := not_mem_actionsIn_succ hstep hreset
    rw [handOversIn_succ_next k hstep, State.no_handOver_of_eos hstep hreset heos, List.nil_append]
    exact ih hrest hreset' ((step_turn hstep).eos_kept hreset heos)

/-- The count law along a run (42_stream_control.md R113). -/
theorem State.Inv.runSteps_count {k : Nat} {s t : State} (h : s.Inv) (hrun : runSteps k s = .next t)
    (hreset : Action.reset ∉ actionsIn k s) :
    s.wrPtr.toNat + (incrementsIn k s).length = (handOversIn k s).sum + t.wrPtr.toNat := by
  induction k generalizing s with
  | zero =>
    cases hrun
    exact Nat.add_comm _ _
  | succ k ih =>
    obtain ⟨u, hstep, hrest⟩ := runSteps_succ_inv hrun
    obtain ⟨hreset, hreset'⟩ := not_mem_actionsIn_succ hstep hreset
    have hfirst := h.step_count hstep hreset
    have hlater := ih (h.turn (step_turn hstep)) hrest hreset'
    rw [incrementsIn_succ_next k hstep, handOversIn_succ_next k hstep, List.length_append, List.sum_append]
    omega

/-- Along a run every buffer handed over but the last is full, and each holds at least one sample. -/
theorem State.Inv.handOversIn_full {k : Nat} {s t : State} (h : s.Inv) (hrun : runSteps k s = .next t)
    (hreset : Action.reset ∉ actionsIn k s) :
    (∀ v ∈ (handOversIn k s).dropLast, v = s.cfg.bufCap) ∧ ∀ v ∈ handOversIn k s, 1 ≤ v ∧ v ≤ s.cfg.bufCap := by
  induction k generalizing s with
  | zero => exact ⟨fun _ hv => absurd hv List.not_mem_nil, fun _ hv => absurd hv List.not_mem_nil⟩
  | succ k ih =>
    obtain ⟨u, hstep, hrest⟩ := runSteps_succ_inv hrun
    obtain ⟨hreset, hreset'⟩ := not_mem_actionsIn_succ hstep hreset
    obtain ⟨hfull, hbounds⟩ := ih (h.turn (step_turn hstep)) hrest hreset'
    rw [(step_turn hstep).cfg_eq] at hfull hbounds
    rw [handOversIn_succ_next k hstep]
    refine ⟨fun v hv => ?_, fun v hv => (List.mem_append.mp hv).elim (h.handedOver_bounds hstep) (hbounds v)⟩
    by_cases hnil : handOversIn k u = []
    · rw [hnil, List.append_nil, State.handedOver_dropLast hstep] at hv
      cases hv
    · rw [List.dropLast_append_of_ne_nil hnil, List.mem_append] at hv
      obtain hv | hv := hv
      · exact (h.handedOver_full hstep hreset hv).resolve_right fun heos =>
          hnil (handOversIn_of_eos hrest hreset' heos)
      · exact hfull v hv

/-- Full buffers and a last one that is not empty are as many as the samples need. -/
theorem length_eq_ceil {l : List Nat} {cap : Nat} (hfull : ∀ v ∈ l.dropLast, v = cap)
    (hbounds : ∀ v ∈ l, 1 ≤ v ∧ v ≤ cap) (hcap : 1 ≤ cap) : l.length = (l.sum + cap - 1) / cap := by
  obtain rfl | ⟨full, last, rfl⟩ := l.eq_nil_or_concat
  · exact (Nat.div_eq_of_lt (by simp; omega)).symm
  · rw [List.concat_eq_append, List.dropLast_concat] at hfull
    obtain ⟨hlo, hhi⟩ := hbounds last (by simp)
    have hsum : full.sum = full.length * cap := by
      rw [List.eq_replicate_of_mem hfull, List.sum_replicate, List.length_replicate, smul_eq_mul]
    rw [List.concat_eq_append, List.length_append, List.sum_append, hsum, List.sum_singleton, List.length_singleton]
    refine (Nat.div_eq_of_lt_le ?_ ?_).symm
    · rw [Nat.add_mul]; omega
    · rw [Nat.add_mul, Nat.add_mul]; omega

end Sys2Proof.Machine
end

section
/-! SUPPORT. The samples of a fill in slot order (42_stream_control.md R113): what each turn adds to them and hands over. -/

namespace Sys2Proof.Machine

/-- The slots below `n` depend on their values. -/
theorem State.slotsBelow_congr {s t : State} {n : Nat} (h : ∀ k, k < n → t.slotValue k = s.slotValue k) :
    t.slotsBelow n = s.slotsBelow n :=
  List.map_congr_left fun k hk => h k (List.mem_range.mp hk)

/-- A slot's value depends on its four bytes in the memory and on the epoch. -/
theorem State.slotValue_of_read {s t : State} {k : Nat} (hepoch : t.epoch = s.epoch)
    (h : ∀ a, 4 * k ≤ a → a < 4 * k + 4 → t.buf.read a = s.buf.read a) : t.slotValue k = s.slotValue k :=
  State.slotValue_congr fun a hlo hhi => State.bufByte_congr (h a hlo hhi) hepoch

/-- A sample stands behind those of the fill it joins. -/
theorem State.modulate_slotsBelow (s : State) (dev : Int) :
    (s.modulate dev).slotsBelow (s.wrPtr.toNat + 1) =
      s.slotsBelow s.wrPtr.toNat ++ [samplePair s.cfg (tableIndex (nextPhase s.acc dev s.kscale))] := by
  rw [State.slotsBelow_succ, State.slotValue_of_slot _ _ _ (s.modulate_slot dev)]
  congr 1
  exact State.slotsBelow_congr fun k hk => State.slotValue_of_read rfl fun a _ _ =>
    Memory.read_writeSlot_outside _ _ _ (by omega)

/-- The padding leaves the samples of the fill alone. -/
theorem State.endStream_slotsBelow (s : State) :
    s.endStream.slotsBelow s.wrPtr.toNat = s.slotsBelow s.wrPtr.toNat :=
  State.slotsBelow_congr fun k hk => State.slotValue_of_read rfl fun a _ _ =>
    s.endStream_read_outside (by omega)

/-- A turn moves the samples it writes into the fill, and the fill it hands over out of it, in order. -/
theorem State.Inv.step_inOrder {s t : State} (h : s.Inv) (hstep : step s = .next t) (hreset : s.action ≠ .reset) :
    s.slotsBelow s.wrPtr.toNat ++ s.sampleWritten.map Prod.snd =
      s.samplesHandedOver ++ t.slotsBelow t.wrPtr.toNat := by
  obtain ⟨dev, he, hptr, rfl⟩ | ⟨he, hw, rfl⟩ | hquiet := (step_turn hstep).fill_cases hreset
  · have hfill := s.acceptWord.modulate_slotsBelow dev
    rw [State.sampleWritten_of_mod he]
    obtain ⟨hown, ⟨hfree, -, hmoved⟩ | ⟨hover, hlast, hzero, hcnt⟩⟩ := State.modulate_fill he h.capOk hptr
    · rw [(State.no_handOver hstep (.inr hfree)).2, hmoved, List.nil_append]
      exact hfill.symm
    · rw [(State.handOver hstep hown hover).2, hzero, hcnt, ← hlast]
      exact hfill.symm.trans (List.append_nil _).symm
  · obtain ⟨hover, hzero, hcnt⟩ := State.endStream_fill (s := s.acceptWord) hw
    have hfill := s.acceptWord.endStream_slotsBelow
    rw [(State.shows_nothing fun dev hmod => by simp [hmod] at he).2,
      (State.handOver hstep (h.not_own_of_fill hw) hover).2, hzero, hcnt]
    exact (List.append_nil _).trans (hfill.symm.trans (List.append_nil _).symm)
  · rw [(State.shows_nothing hquiet.noSample).2, (hquiet.shows_nothing hstep).2, hquiet.wrPtr, List.map_nil,
      List.append_nil, List.nil_append]
    exact (State.slotsBelow_congr fun k _ => State.slotValue_of_read hquiet.epoch fun a _ _ => by rw [hquiet.buf]).symm

theorem samplesIn_succ_next (k : Nat) {s t : State} (h : step s = .next t) :
    samplesIn (k + 1) s = s.sampleWritten ++ samplesIn k t := collect_succ_next _ _ h

/-- The same along a run. -/
theorem State.Inv.runSteps_inOrder {k : Nat} {s t : State} (h : s.Inv) (hrun : runSteps k s = .next t)
    (hreset : Action.reset ∉ actionsIn k s) :
    s.slotsBelow s.wrPtr.toNat ++ (samplesIn k s).map Prod.snd =
      samplesHandedOverIn k s ++ t.slotsBelow t.wrPtr.toNat := by
  induction k generalizing s with
  | zero =>
    cases hrun
    exact List.append_nil _
  | succ k ih =>
    obtain ⟨u, hstep, hrest⟩ := runSteps_succ_inv hrun
    obtain ⟨hreset, hreset'⟩ := not_mem_actionsIn_succ hstep hreset
    have hhanded : samplesHandedOverIn (k + 1) s = s.samplesHandedOver ++ samplesHandedOverIn k u :=
      collect_succ_next _ _ hstep
    calc s.slotsBelow s.wrPtr.toNat ++ (samplesIn (k + 1) s).map Prod.snd
      _ = (s.slotsBelow s.wrPtr.toNat ++ s.sampleWritten.map Prod.snd) ++ (samplesIn k u).map Prod.snd := by
        rw [samplesIn_succ_next k hstep, List.map_append, List.append_assoc]
      _ = s.samplesHandedOver ++ (u.slotsBelow u.wrPtr.toNat ++ (samplesIn k u).map Prod.snd) := by
        rw [h.step_inOrder hstep hreset, List.append_assoc]
      _ = samplesHandedOverIn (k + 1) s ++ t.slotsBelow t.wrPtr.toNat := by
        rw [ih (h.turn (step_turn hstep)) hrest hreset', hhanded, List.append_assoc]

end Sys2Proof.Machine
end

section
/-! SUPPORT. One fill from its first sample to its hand-over, whatever the slots held before (42_stream_control.md R113,
10_state.md R34 I5). -/

namespace Sys2Proof.Machine

/-- The samples written to a fill so far stand in the slots in order. -/
def State.SlotsHold (s : State) (l : List (Count × Word)) : Prop :=
  ∀ (j : Nat) (p : Count × Word), l[j]? = some p → p.1.toNat = j ∧ s.buf.slot j = some p.2

/-- The command agent has the buffer, and its fill holds the samples `l`. -/
structure State.FillHolds (s : State) (l : List (Count × Word)) : Prop where
  cap : s.cfg.capOk = true
  free : s.own = false
  pointer : s.wrPtr.toNat < s.cfg.bufCap
  count : l.length = s.wrPtr.toNat
  slots : s.SlotsHold l

/-- The sink has the buffer, and it holds the samples `l` and zero after them. -/
structure State.PushHolds (s : State) (l : List (Count × Word)) : Prop where
  own : s.own = true
  empty : s.wrPtr = 0
  count : l.length = s.vcnt.toNat
  slots : s.SlotsHold l
  padding : ∀ j, l.length ≤ j → j < s.cfg.bufCap → s.buf.slot j = some 0

/-- The slots that hold samples depend on the memory. -/
theorem State.SlotsHold.congr {s t : State} {l : List (Count × Word)} (h : s.SlotsHold l)
    (hbuf : ∀ j, j < l.length → t.buf.slot j = s.buf.slot j) : t.SlotsHold l := fun j p hp => by
  obtain ⟨hj, -⟩ := List.getElem?_eq_some_iff.mp hp
  obtain ⟨hslot, hvalue⟩ := h j p hp
  exact ⟨hslot, (hbuf j hj).trans hvalue⟩

/-- A sample joins the fill in the next slot. -/
theorem State.FillHolds.modulate_slots {s : State} {l : List (Count × Word)} (h : s.FillHolds l) {dev : Int}
    (he : s.executed = some (.mod dev)) : (s.acceptWord.modulate dev).SlotsHold (l ++ s.sampleWritten) := by
  rw [State.sampleWritten_of_mod he]
  intro j p hp
  obtain hj | hj := Nat.lt_or_ge j l.length
  · rw [List.getElem?_append_left hj] at hp
    refine h.slots.congr (t := s.acceptWord.modulate dev) (fun i hi => ?_) j p hp
    exact Memory.slot_writeSlot_other _ _ (h.count ▸ hi).ne
  · rw [List.getElem?_append_right hj] at hp
    obtain ⟨hlt, rfl⟩ := List.getElem?_eq_some_iff.mp hp
    have hlast : j = s.wrPtr.toNat := by
      rw [List.length_singleton] at hlt
      have hcount := h.count
      omega
    rw [List.getElem_singleton, hlast]
    exact ⟨rfl, s.acceptWord.modulate_slot dev⟩

/-- A turn of a fill goes on with it, or hands it over. -/
theorem State.FillHolds.step_cases {s t : State} {l : List (Count × Word)} (h : s.FillHolds l)
    (hstep : step s = .next t) (hreset : s.action ≠ .reset) :
    (s.handedOver = [] ∧ t.FillHolds (l ++ s.sampleWritten)) ∨
      (s.handedOver = [t.vcnt.toNat] ∧ t.PushHolds (l ++ s.sampleWritten)) := by
  obtain ⟨dev, he, hptr, rfl⟩ | ⟨he, hw, rfl⟩ | hquiet := (step_turn hstep).fill_cases hreset
  · have hslots := h.modulate_slots he
    have hcount : (l ++ s.sampleWritten).length = s.wrPtr.toNat + 1 := by
      rw [List.length_append, h.count, State.sampleWritten_of_mod he, List.length_singleton]
    obtain ⟨hown, ⟨hfree, hinner, hmoved⟩ | ⟨hover, hlast, hzero, hcnt⟩⟩ := State.modulate_fill he h.cap hptr
    · exact .inl ⟨(State.no_handOver hstep (.inr hfree)).1, h.cap, hfree, hmoved ▸ hinner, hcount.trans hmoved.symm,
        hslots⟩
    · refine .inr ⟨(State.handOver hstep hown hover).1, hover, hzero, by rw [hcount, hcnt, hlast], hslots,
        fun j hle hlt => ?_⟩
      rw [hcount, hlast] at hle
      exact absurd hlt (Nat.not_lt_of_le hle)
  · obtain ⟨hover, hzero, hcnt⟩ := State.endStream_fill (s := s.acceptWord) hw
    rw [(State.shows_nothing fun dev hmod => by simp [hmod] at he).2, List.append_nil]
    refine .inr ⟨(State.handOver hstep h.free hover).1, hover, hzero, by rw [hcnt]; exact h.count,
      h.slots.congr fun j hj => State.endStream_slot_below s.acceptWord (.inl (h.count ▸ hj)), fun j hle hlt => ?_⟩
    exact State.endStream_slot_padding (s := s.acceptWord) hw (h.count ▸ hle) hlt
  · rw [(State.shows_nothing hquiet.noSample).2, List.append_nil]
    have hfree : t.own = false := hquiet.own.elim (fun hsame => hsame.trans h.free) id
    exact .inl ⟨(hquiet.shows_nothing hstep).1, hquiet.cfg ▸ h.cap, hfree, by rw [hquiet.wrPtr, hquiet.cfg]; exact h.pointer,
      by rw [hquiet.wrPtr]; exact h.count, h.slots.congr fun j _ => by rw [hquiet.buf]⟩

/-- A turn of a push writes no sample, and keeps the buffer unless it gives it back. -/
theorem State.PushHolds.step_cases {s t : State} {l : List (Count × Word)} (h : s.PushHolds l)
    (hstep : step s = .next t) (hreset : s.action ≠ .reset) :
    s.sampleWritten = [] ∧ (t.PushHolds l ∨ t.own = false) := by
  obtain ⟨dev, he, -⟩ | ⟨-, hw, -⟩ | hquiet := (step_turn hstep).fill_cases hreset
  · obtain ⟨-, -, -, hfree⟩ := State.running_of_executed_mod he
    exact absurd (hfree.symm.trans h.own) Bool.false_ne_true
  · exact absurd h.empty hw
  · refine ⟨(State.shows_nothing hquiet.noSample).2, hquiet.own.imp_left fun hown => ?_⟩
    exact ⟨hown.trans h.own, hquiet.wrPtr.trans h.empty, by rw [hquiet.vcnt]; exact h.count,
      h.slots.congr fun j _ => by rw [hquiet.buf], by rw [hquiet.buf, hquiet.cfg]; exact h.padding⟩

/-- Without a hand-over the command agent keeps the buffer it has. -/
theorem runSteps_not_own {k : Nat} {s t : State} (hrun : runSteps k s = .next t) (hnone : handOversIn k s = [])
    (hfree : s.own = false) : t.own = false := by
  induction k generalizing s with
  | zero =>
    cases hrun
    exact hfree
  | succ k ih =>
    obtain ⟨u, hstep, hrest⟩ := runSteps_succ_inv hrun
    rw [handOversIn_succ_next k hstep, List.append_eq_nil_iff] at hnone
    refine ih hrest hnone.2 (Bool.eq_false_iff.mpr fun hover => ?_)
    rw [(State.handOver hstep hfree hover).1] at hnone
    cases hnone.1

/-- A run that begins and ends with the sink's buffer, and hands none over, keeps it and writes no sample. -/
theorem State.PushHolds.runSteps_keeps {k : Nat} {s t : State} {l : List (Count × Word)} (h : s.PushHolds l)
    (hrun : runSteps k s = .next t) (hreset : Action.reset ∉ actionsIn k s) (hnone : handOversIn k s = [])
    (hown : t.own = true) : samplesIn k s = [] ∧ t.PushHolds l := by
  induction k generalizing s with
  | zero =>
    cases hrun
    exact ⟨rfl, h⟩
  | succ k ih =>
    obtain ⟨u, hstep, hrest⟩ := runSteps_succ_inv hrun
    obtain ⟨hreset, hreset'⟩ := not_mem_actionsIn_succ hstep hreset
    rw [handOversIn_succ_next k hstep, List.append_eq_nil_iff] at hnone
    obtain ⟨hshow, hpush | hfree⟩ := h.step_cases hstep hreset
    · rw [samplesIn_succ_next k hstep, hshow, List.nil_append]
      exact ih hpush hrest hreset' hnone.2
    · exact absurd ((runSteps_not_own hrest hnone.2 hfree).symm.trans hown) Bool.false_ne_true

/-- A run that hands nothing over goes on with the fill. -/
theorem State.FillHolds.runSteps_fills {k : Nat} {s t : State} {l : List (Count × Word)} (h : s.FillHolds l)
    (hrun : runSteps k s = .next t) (hreset : Action.reset ∉ actionsIn k s) (hnone : handOversIn k s = []) :
    t.FillHolds (l ++ samplesIn k s) := by
  induction k generalizing s l with
  | zero =>
    cases hrun
    rwa [samplesIn, collect_zero, List.append_nil]
  | succ k ih =>
    obtain ⟨u, hstep, hrest⟩ := runSteps_succ_inv hrun
    obtain ⟨hreset, hreset'⟩ := not_mem_actionsIn_succ hstep hreset
    rw [handOversIn_succ_next k hstep, List.append_eq_nil_iff] at hnone
    obtain ⟨-, hfill⟩ | ⟨hover, -⟩ := h.step_cases hstep hreset
    · rw [samplesIn_succ_next k hstep, ← List.append_assoc]
      exact ih hfill hrest hreset' hnone.2
    · cases hover.symm.trans hnone.1

/-- A run that hands one buffer over and ends with it leaves the fill's samples in it. -/
theorem State.FillHolds.runSteps_handsOver {k : Nat} {s t : State} {l : List (Count × Word)} {n : Nat}
    (h : s.FillHolds l) (hrun : runSteps k s = .next t) (hreset : Action.reset ∉ actionsIn k s)
    (hone : handOversIn k s = [n]) (hown : t.own = true) :
    t.PushHolds (l ++ samplesIn k s) ∧ (l ++ samplesIn k s).length = n := by
  induction k generalizing s l with
  | zero => cases hone
  | succ k ih =>
    obtain ⟨u, hstep, hrest⟩ := runSteps_succ_inv hrun
    obtain ⟨hreset, hreset'⟩ := not_mem_actionsIn_succ hstep hreset
    rw [handOversIn_succ_next k hstep] at hone
    rw [samplesIn_succ_next k hstep, ← List.append_assoc]
    obtain ⟨hnone, hfill⟩ | ⟨hover, hpush⟩ := h.step_cases hstep hreset
    · rw [hnone, List.nil_append] at hone
      exact ih hfill hrest hreset' hone
    · rw [hover, List.singleton_append, List.cons.injEq] at hone
      obtain ⟨hcnt, hnone⟩ := hone
      obtain ⟨hshow, hkept⟩ := hpush.runSteps_keeps hrest hreset' hnone hown
      rw [hshow, List.append_nil]
      exact ⟨hkept, hpush.count.trans hcnt⟩

end Sys2Proof.Machine
end

section
/-! CERTIFICATES. The count law and the contents of the buffers handed over (42_stream_control.md section 2). -/

namespace Sys2Proof.Machine

/-- Settles O46: the count turn by turn, the full buffers, and the number of them. -/
theorem samplesAreConserved : Obligations.SamplesAreConserved := by
  intro k s t hinv hrun hreset
  have hcount := hinv.runSteps_count hrun hreset
  obtain ⟨hfull, hbounds⟩ := hinv.handOversIn_full hrun hreset
  refine ⟨hcount, hfull, fun hstart hend => ?_⟩
  have hsum : (incrementsIn k s).length = (handOversIn k s).sum := by simpa [hstart, hend] using hcount
  rw [hsum]
  exact length_eq_ceil hfull hbounds (Config.bufCap_bounds hinv.capOk).1

/-- Settles O56: the samples move through the fill and out of it in order. -/
theorem handedOverSamplesInOrder : Obligations.HandedOverSamplesInOrder :=
  fun _ _ _ hinv hrun hreset => hinv.runSteps_inOrder hrun hreset

/-- Settles O55: the empty fill, filled turn by turn, and handed over once or not yet. -/
theorem handedOverBufferHoldsItsFill : Obligations.HandedOverBufferHoldsItsFill := by
  intro k s t hcap hown hw hreset hrun
  have hcfg := runSteps_cfg hrun
  have hempty : s.FillHolds [] :=
    ⟨hcap, hown, by rw [hw]; exact (Config.bufCap_bounds hcap).1, by rw [hw]; rfl, fun j p hp => by simp at hp⟩
  refine ⟨fun n hone hown' => ?_, fun hnone => ?_⟩
  · obtain ⟨hpush, hlen⟩ := hempty.runSteps_handsOver hrun hreset hone hown'
    rw [List.nil_append] at hpush hlen
    exact ⟨hpush.count.symm.trans hlen, hlen, hpush.slots, fun j hle hlt => hpush.padding j (hlen ▸ hle) (hcfg ▸ hlt)⟩
  · have hfill := hempty.runSteps_fills hrun hreset hnone
    rw [List.nil_append] at hfill
    exact ⟨hfill.free, hfill.count, hfill.slots⟩

end Sys2Proof.Machine
end

section
/-! SUPPORT. The table by quadrants, and its named integer properties (20_memory.md R48). -/

namespace Sys2Proof.Machine

/-! ### The quarter table under a legal configuration -/

/-- The quarter table runs from 0 to `AMP` (20_memory.md R48 P2). -/
theorem quarterEntry_ends {c : Config} (hc : c.wf = true) : quarterEntry c 0 = 0 ∧ quarterEntry c 256 = c.amp := by
  obtain ⟨-, -, haxes, -⟩ := c.wf_iff.mp hc
  simp only [Config.axesOk, Bool.and_eq_true, decide_eq_true_eq] at haxes
  obtain ⟨⟨-, hfirst⟩, hlast⟩ := haxes
  simp [quarterEntry, List.getD_eq_getElem?_getD, hfirst, hlast]

/-- The quarter table has 257 entries. -/
theorem quarter_length {c : Config} (hc : c.wf = true) : c.quarter.length = 257 := by
  obtain ⟨-, -, haxes, -⟩ := c.wf_iff.mp hc
  simp only [Config.axesOk, Bool.and_eq_true, decide_eq_true_eq] at haxes
  exact haxes.1.1

/-- The quarter table never falls (20_memory.md R48 P7). -/
theorem quarterEntry_le_succ {c : Config} (hc : c.wf = true) {j : Nat} (hj : j < 256) :
    quarterEntry c j ≤ quarterEntry c (j + 1) := by
  obtain ⟨-, -, -, hmono, -⟩ := c.wf_iff.mp hc
  have hlen := quarter_length hc
  have hstep : c.quarter[j] ≤ c.quarter[j + 1] := ((risingList_iff _).mp hmono).getElem j (by omega)
  rw [quarterEntry, quarterEntry, List.getD_eq_getElem _ _ (by omega), List.getD_eq_getElem _ _ (by omega)]
  exact_mod_cast hstep

/-- An entry and its mirror leave the circle by no more than the rounding (20_memory.md R48 P6). -/
theorem quarterEntry_norm {c : Config} (hc : c.wf = true) {j : Nat} (hj : j ≤ 256) :
    quarterEntry c j * quarterEntry c j + quarterEntry c (256 - j) * quarterEntry c (256 - j) ≤
      (c.amp : Int) * c.amp + 2 * c.amp := by
  obtain ⟨-, -, -, -, hnorm⟩ := c.wf_iff.mp hc
  have hlen := quarter_length hc
  have hmem : (c.quarter[j]'(by omega), c.quarter[256 - j]'(by omega)) ∈ c.quarter.zip c.quarter.reverse := by
    have hzip : j < (c.quarter.zip c.quarter.reverse).length := by simp [hlen]; omega
    have hpair := List.getElem_mem hzip
    rw [List.getElem_zip, List.getElem_reverse] at hpair
    simpa [hlen] using hpair
  have hbound := of_decide_eq_true (List.all_eq_true.mp hnorm _ hmem)
  rw [quarterEntry, quarterEntry, List.getD_eq_getElem _ _ (by omega), List.getD_eq_getElem _ _ (by omega)]
  exact_mod_cast hbound

/-! ### The sine by quadrants -/

/-- The first quadrant, its end included (20_memory.md R48 P4). -/
theorem sinRom_first (c : Config) {j : Nat} (hj : j ≤ 256) : sinRom c (BitVec.ofNat 10 j) = quarterEntry c j := by
  have hk : (BitVec.ofNat 10 j).toNat = j := by rw [BitVec.toNat_ofNat]; omega
  obtain hlt | rfl := Nat.lt_or_eq_of_le hj
  · have hquad : j / 256 = 0 := by omega
    have hrest : j % 256 = j := by omega
    simp only [sinRom, hk, hquad, hrest]
  · rfl

/-- The second quadrant mirrors the first. -/
theorem sinRom_second (c : Config) {j : Nat} (hj : j < 256) :
    sinRom c (BitVec.ofNat 10 (256 + j)) = quarterEntry c (256 - j) := by
  have hk : (BitVec.ofNat 10 (256 + j)).toNat = 256 + j := by rw [BitVec.toNat_ofNat]; omega
  have hquad : (256 + j) / 256 = 1 := by omega
  have hrest : (256 + j) % 256 = j := by omega
  simp only [sinRom, hk, hquad, hrest]

/-- The third quadrant is the first, negated. -/
theorem sinRom_third (c : Config) {j : Nat} (hj : j < 256) :
    sinRom c (BitVec.ofNat 10 (512 + j)) = -quarterEntry c j := by
  have hk : (BitVec.ofNat 10 (512 + j)).toNat = 512 + j := by rw [BitVec.toNat_ofNat]; omega
  have hquad : (512 + j) / 256 = 2 := by omega
  have hrest : (512 + j) % 256 = j := by omega
  simp only [sinRom, hk, hquad, hrest]

/-- The fourth quadrant is the second, negated. -/
theorem sinRom_fourth (c : Config) {j : Nat} (hj : j < 256) :
    sinRom c (BitVec.ofNat 10 (768 + j)) = -quarterEntry c (256 - j) := by
  have hk : (BitVec.ofNat 10 (768 + j)).toNat = 768 + j := by rw [BitVec.toNat_ofNat]; omega
  have hquad : (768 + j) / 256 = 3 := by omega
  have hrest : (768 + j) % 256 = j := by omega
  simp only [sinRom, hk, hquad, hrest]

/-- The cosine is the sine a quarter turn on (20_memory.md R48 P3). -/
theorem cosRom_ofNat (c : Config) (n : Nat) : cosRom c (BitVec.ofNat 10 n) = sinRom c (BitVec.ofNat 10 (n + 256)) := by
  rw [cosRom, BitVec.ofNat_add]
  rfl

/-- Every index is in one of the four quadrants. -/
theorem index_cases (k : Index) :
    ∃ j < 256, k = BitVec.ofNat 10 j ∨ k = BitVec.ofNat 10 (256 + j) ∨ k = BitVec.ofNat 10 (512 + j) ∨
      k = BitVec.ofNat 10 (768 + j) := by
  refine ⟨k.toNat % 256, Nat.mod_lt _ (by decide), ?_⟩
  have hk : k = BitVec.ofNat 10 k.toNat := by rw [BitVec.ofNat_toNat, BitVec.setWidth_eq]
  have hquad : k.toNat = k.toNat % 256 ∨ k.toNat = 256 + k.toNat % 256 ∨ k.toNat = 512 + k.toNat % 256 ∨
      k.toNat = 768 + k.toNat % 256 := by omega
  obtain h | h | h | h := hquad
  · exact .inl (hk.trans (congrArg _ h))
  · exact .inr (.inl (hk.trans (congrArg _ h)))
  · exact .inr (.inr (.inl (hk.trans (congrArg _ h))))
  · exact .inr (.inr (.inr (hk.trans (congrArg _ h))))

/-- An index past the end of the table is the one a whole turn before. -/
theorem ofNat_index_wrap (n : Nat) : BitVec.ofNat 10 (1024 + n) = (BitVec.ofNat 10 n : Index) := by
  apply BitVec.eq_of_toNat_eq
  rw [BitVec.toNat_ofNat, BitVec.toNat_ofNat, Nat.add_mod_left]

/-- The pair of an index is an entry of the quarter table and its mirror, up to order and signs. -/
theorem cosRom_sinRom_sq (c : Config) (k : Index) :
    ∃ j ≤ 256, cosRom c k * cosRom c k + sinRom c k * sinRom c k =
      quarterEntry c j * quarterEntry c j + quarterEntry c (256 - j) * quarterEntry c (256 - j) := by
  obtain ⟨j, hj, rfl | rfl | rfl | rfl⟩ := index_cases k
  · rw [cosRom_ofNat, Nat.add_comm j, sinRom_second c hj, sinRom_first c hj.le]
    exact ⟨j, hj.le, add_comm _ _⟩
  · rw [cosRom_ofNat, show 256 + j + 256 = 512 + j by omega, sinRom_third c hj, sinRom_second c hj]
    exact ⟨j, hj.le, by ring⟩
  · rw [cosRom_ofNat, show 512 + j + 256 = 768 + j by omega, sinRom_fourth c hj, sinRom_third c hj]
    exact ⟨j, hj.le, by ring⟩
  · rw [cosRom_ofNat, show 768 + j + 256 = 1024 + j by omega, ofNat_index_wrap, sinRom_first c hj.le,
      sinRom_fourth c hj]
    exact ⟨j, hj.le, by ring⟩

/-- No pair leaves the circle by more than the rounding (20_memory.md R48 P6). -/
theorem cosRom_sinRom_norm {c : Config} (hc : c.wf = true) (k : Index) :
    cosRom c k * cosRom c k + sinRom c k * sinRom c k ≤ (c.amp : Int) * c.amp + 2 * c.amp := by
  obtain ⟨j, hj, hsq⟩ := cosRom_sinRom_sq c k
  exact hsq ▸ quarterEntry_norm hc hj

/-- A number of the table comes back out of its half of a slot (10_state.md R25). -/
theorem toInt_ofInt_of_bounds {c : Config} (hc : c.wf = true) {n : Int} (hn : -(c.amp : Int) ≤ n ∧ n ≤ c.amp) :
    (BitVec.ofInt 16 n).toInt = n := by
  have hamp := Config.amp_le_of_wf hc
  exact BitVec.toInt_ofInt_eq_self (by omega) (by omega) (by omega)

end Sys2Proof.Machine
end

section
/-! CERTIFICATES. The integer properties of the table and of the samples (20_memory.md section 4, 40_modulate.md
section 5). -/

namespace Sys2Proof.Machine

/-- Settles O50: the properties of the quarter table, carried to every index by the quadrants. -/
theorem tableProperties : Obligations.TableProperties := by
  intro c hc
  have hamp := Config.amp_le_of_wf hc
  obtain ⟨hzero, hlast⟩ := quarterEntry_ends hc
  refine ⟨fun k => ?range, ?axes, fun k => ?quadrature, fun j hj => ⟨?second, ?third, ?fourth⟩, fun k => ?norm,
    fun j hj => ?monotone⟩
  case range =>
    obtain ⟨hcos, hcos'⟩ := cosRom_bounds hc k
    obtain ⟨hsin, hsin'⟩ := sinRom_bounds hc k
    exact ⟨hcos, hcos', hsin, hsin', by omega, by omega⟩
  case axes =>
    have h0 := sinRom_first c (j := 0) (by decide)
    have h256 := sinRom_first c (j := 256) (by decide)
    have h512 := sinRom_third c (j := 0) (by decide)
    have h768 := sinRom_fourth c (j := 0) (by decide)
    rw [hzero] at h0 h512
    rw [Nat.sub_zero] at h768
    rw [hlast] at h256 h768
    rw [neg_zero] at h512
    exact ⟨h256, h0, h512, h256, h768, h512, h0, h768⟩
  case quadrature =>
    have hk : k + 256 = BitVec.ofNat 10 ((k.toNat + 256) % 1024) := by
      apply BitVec.eq_of_toNat_eq
      simp [BitVec.toNat_add]
    rw [cosRom, hk]
  case second => rw [sinRom_second c (by omega), sinRom_first c (by omega)]
  case third => rw [sinRom_third c (by omega), sinRom_first c (by omega)]
  case fourth => rw [sinRom_fourth c (by omega), sinRom_first c (by omega)]
  case norm =>
    have hnorm := cosRom_sinRom_norm hc k
    exact ⟨hnorm, by linarith⟩
  case monotone =>
    rw [sinRom_first c (by omega), sinRom_first c (by omega)]
    exact quarterEntry_le_succ hc hj

/-- Settles O52: the halves of a sample are the table's cosine and sine. -/
theorem outputRange : Obligations.OutputRange := by
  rintro c v hc ⟨k, rfl⟩
  have hcos := cosRom_bounds hc k
  have hsin := sinRom_bounds hc k
  have hI : (slotI (samplePair c k)).toInt = cosRom c k := by
    rw [samplePair, slotI_packPair, toInt_ofInt_of_bounds hc hcos]
  have hQ : (slotQ (samplePair c k)).toInt = sinRom c k := by
    rw [samplePair, slotQ_packPair, toInt_ofInt_of_bounds hc hsin]
  rw [hI, hQ]
  exact ⟨hcos.1, hcos.2, hsin.1, hsin.2, cosRom_sinRom_norm hc k, samplePair_halvesLegal hc k⟩

end Sys2Proof.Machine
end

section
/-! SUPPORT. The fixed-point phase as a real one (00_scope.md section 4): the table step below it, and the accumulator after
one increment. -/

namespace Sys2Proof.Machine

/-- A rounding is off by at most one half. -/
theorem IsRounding.abs_sub_le {x : ℝ} {n : ℤ} (h : IsRounding x n) : |(n : ℝ) - x| ≤ 1 / 2 := by
  rw [abs_sub_comm]
  obtain h | ⟨h, -⟩ := h
  · exact h.le
  · exact h.le

/-- The real phase of the accumulator is at most one table step past that of its index (40_modulate.md R83). -/
theorem abs_index_sub_phase_le (a : Phase) :
    |2 * Real.pi * (tableIndex a).toNat / 1024 - 2 * Real.pi * (a.toNat / 2 ^ 48)| ≤ 2 * Real.pi / 1024 := by
  have hidx := tableIndex_toNat a
  have hlo : ((tableIndex a).toNat : ℝ) * 2 ^ 38 ≤ a.toNat := by
    have h : (tableIndex a).toNat * 2 ^ 38 ≤ a.toNat := by omega
    exact_mod_cast h
  have hhi : (a.toNat : ℝ) ≤ ((tableIndex a).toNat + 1) * 2 ^ 38 := by
    have h : a.toNat ≤ ((tableIndex a).toNat + 1) * 2 ^ 38 := by omega
    exact_mod_cast h
  have hstep : 2 * Real.pi * (tableIndex a).toNat / 1024 - 2 * Real.pi * (a.toNat / 2 ^ 48) =
      2 * Real.pi / 1024 * ((tableIndex a).toNat - a.toNat / 2 ^ 38) := by ring
  have hfrac : |((tableIndex a).toNat : ℝ) - a.toNat / 2 ^ 38| ≤ 1 := by
    rw [abs_le]
    constructor
    · have : (a.toNat : ℝ) / 2 ^ 38 ≤ (tableIndex a).toNat + 1 := (div_le_iff₀ (by positivity)).mpr hhi
      linarith
    · have : ((tableIndex a).toNat : ℝ) ≤ a.toNat / 2 ^ 38 := (le_div_iff₀ (by positivity)).mpr hlo
      linarith
  rw [hstep, abs_mul, abs_of_pos (by positivity)]
  exact mul_le_of_le_one_right (by positivity) hfrac

/-- An entry of the reference table is off by the rounding and one table step at most, for a function that moves no faster
than its argument. -/
theorem abs_entry_sub_le {f : ℝ → ℝ} (hf : ∀ x y, |f x - f y| ≤ |x - y|) {amp : Nat} {n : ℤ} {idx phase step : ℝ}
    (hround : IsRounding (amp * f idx) n) (hstep : |idx - phase| ≤ step) :
    |(n : ℝ) - amp * f phase| ≤ 1 / 2 + amp * step := by
  calc |(n : ℝ) - amp * f phase|
    _ = |((n : ℝ) - amp * f idx) + amp * (f idx - f phase)| := by congr 1; ring
    _ ≤ |(n : ℝ) - amp * f idx| + |amp * (f idx - f phase)| := abs_add_le _ _
    _ = |(n : ℝ) - amp * f idx| + amp * |f idx - f phase| := by rw [abs_mul (amp : ℝ), Nat.abs_cast]
    _ ≤ 1 / 2 + amp * step := by
      gcongr
      · exact hround.abs_sub_le
      · exact (hf _ _).trans hstep

/-- The accumulator after an increment is the real phase after the real increment, up to whole turns (40_modulate.md
section 1). -/
theorem IsPhase.next {x : ℝ} {a : Phase} (h : IsPhase x a) (dev : Int) (k : Word) :
    IsPhase (x + 2 * Real.pi * (dev * (k.toNat / 2 ^ 48))) (nextPhase a dev k) := by
  obtain ⟨turns, rfl⟩ := h
  obtain ⟨wraps, hwraps⟩ : ∃ wraps : ℤ,
      ((nextPhase a dev k).toNat : ℤ) + 2 ^ 48 * wraps = (a.toNat : ℤ) + dev * k.toNat :=
    ⟨_, by rw [nextPhase_toNat, Int.emod_add_mul_ediv, phaseIncrement]⟩
  have hreal : ((nextPhase a dev k).toNat : ℝ) + 2 ^ 48 * wraps = (a.toNat : ℝ) + dev * k.toNat := by
    exact_mod_cast congrArg (Int.cast : ℤ → ℝ) hwraps
  refine ⟨turns + wraps, ?_⟩
  push_cast
  linear_combination (-(2 * Real.pi) / 2 ^ 48) * hreal

/-- Whole turns do not change the cosine and the sine of a phase. -/
theorem IsPhase.cos_sin {x : ℝ} {a : Phase} (h : IsPhase x a) :
    Real.cos x = Real.cos (2 * Real.pi * (a.toNat / 2 ^ 48)) ∧ Real.sin x = Real.sin (2 * Real.pi * (a.toNat / 2 ^ 48)) := by
  obtain ⟨turns, rfl⟩ := h
  rw [mul_comm (2 * Real.pi) (turns : ℝ)]
  exact ⟨Real.cos_add_int_mul_two_pi _ _, Real.sin_add_int_mul_two_pi _ _⟩

end Sys2Proof.Machine
end

section
/-! CERTIFICATES. The modulator and the real one (40_modulate.md section 1, 00_scope.md section 4). -/

namespace Sys2Proof.Machine

/-- Settles O47: the accumulator as a real phase, and the table entry at its index. -/
theorem refinesRealModulator : Obligations.RefinesRealModulator := by
  intro s dev x htable hphase herr heos hsfail hown hptr
  have hnext := hphase.next dev s.kscale
  obtain ⟨hcos, hsin⟩ := hnext.cos_sin
  obtain ⟨hI, hQ⟩ := htable (tableIndex (nextPhase s.acc dev s.kscale))
  have hstep := abs_index_sub_phase_le (nextPhase s.acc dev s.kscale)
  refine ⟨s.modulate dev, cosRom s.cfg _, sinRom s.cfg _, _, exec_mod_running dev herr heos hsfail hown hptr, rfl, hnext,
    s.modulate_slot dev, ?_, ?_⟩
  · rw [hcos]
    exact abs_entry_sub_le Real.abs_cos_sub_cos_le hI hstep
  · rw [hsin]
    exact abs_entry_sub_le Real.abs_sin_sub_sin_le hQ hstep

end Sys2Proof.Machine
end

section
/-! SUPPORT. The printed quarter table against the real sine (20_memory.md R47, 95_test_vectors.md T-ROM): the powers of one
rational point of the plane, close to the table step's point of the unit circle, are computed exactly and compared with the
table, and stay close to the powers of the step itself. -/

namespace Sys2Proof.Machine

open Complex (I)

/-! ### The table step -/

/-- The angle of one table step. -/
noncomputable def stepAngle : ℝ := 2 * Real.pi / 1024

/-- `10^13` times the cosine of the table step, truncated. -/
def stepCos : ℤ := 9999811752826

/-- `10^13` times the sine of the table step, truncated. -/
def stepSin : ℤ := 61358846491

/-- The unit of `stepCos` and `stepSin`. -/
def stepScale : ℤ := 10 ^ 13

/-- The rational point for the table step. -/
noncomputable def stepPoint : ℂ := (stepCos + stepSin * I) / stepScale

/-- The angle of the table step, from twenty digits of π. -/
theorem stepAngle_bounds : 0.0061359231515425649 < stepAngle ∧ stepAngle < 0.006135923151542565 := by
  have hlo := Real.pi_gt_d20
  have hhi := Real.pi_lt_d20
  rw [stepAngle]
  constructor <;> linarith

/-- The exponential series up to the fourth power at an imaginary point. -/
theorem exp_mul_I_taylor (x : ℝ) (h0 : 0 ≤ x) (h1 : x ≤ 1) :
    ‖Complex.exp (x * I) - ((1 - x ^ 2 / 2 + x ^ 4 / 24 : ℝ) + (x - x ^ 3 / 6 : ℝ) * I)‖ ≤ x ^ 5 / 60 := by
  have hnorm : ‖(x * I : ℂ)‖ = x := by simp [abs_of_nonneg h0]
  have hseries := Complex.exp_bound' (x := x * I) (n := 5) (by rw [hnorm]; norm_num; linarith)
  have hsum : ∑ m ∈ Finset.range 5, (x * I : ℂ) ^ m / m.factorial =
      (1 - x ^ 2 / 2 + x ^ 4 / 24 : ℝ) + (x - x ^ 3 / 6 : ℝ) * I := by
    have hI2 := Complex.I_sq
    have hI3 : I ^ 3 = -I := by rw [pow_succ, hI2]; ring
    have hI4 : I ^ 4 = 1 := Complex.I_pow_four
    simp only [Finset.sum_range_succ, Finset.sum_range_zero, mul_pow, hI2, hI3, hI4, Nat.factorial]
    push_cast
    ring
  rw [hsum, hnorm] at hseries
  refine hseries.trans (le_of_eq ?_)
  norm_num [Nat.factorial]
  ring

/-- The exponential series at the table step, in its real and its imaginary part. -/
theorem taylor_parts_bounds :
    |1 - stepAngle ^ 2 / 2 + stepAngle ^ 4 / 24 - stepCos / stepScale| ≤ 2 / 10 ^ 13 ∧
      |stepAngle - stepAngle ^ 3 / 6 - stepSin / stepScale| ≤ 2 / 10 ^ 13 := by
  obtain ⟨hlo, hhi⟩ := stepAngle_bounds
  have power (n : ℕ) : 0.0061359231515425649 ^ n ≤ stepAngle ^ n ∧ stepAngle ^ n ≤ 0.006135923151542565 ^ n :=
    ⟨pow_le_pow_left₀ (by norm_num) hlo.le n, pow_le_pow_left₀ (by linarith) hhi.le n⟩
  obtain ⟨hlo2, hhi2⟩ := power 2
  obtain ⟨hlo3, hhi3⟩ := power 3
  obtain ⟨hlo4, hhi4⟩ := power 4
  rw [stepCos, stepSin, stepScale, abs_le, abs_le]
  norm_num at hlo hhi hlo2 hhi2 hlo3 hhi3 hlo4 hhi4 ⊢
  refine ⟨⟨?_, ?_⟩, ?_, ?_⟩ <;> linarith

/-- The rational point is close to the series at the table step. -/
theorem norm_taylor_sub_stepPoint_le :
    ‖((1 - stepAngle ^ 2 / 2 + stepAngle ^ 4 / 24 : ℝ) + (stepAngle - stepAngle ^ 3 / 6 : ℝ) * I : ℂ) - stepPoint‖ ≤
      2 / 10 ^ 13 + 2 / 10 ^ 13 := by
  obtain ⟨hre, him⟩ := taylor_parts_bounds
  have hparts : ((1 - stepAngle ^ 2 / 2 + stepAngle ^ 4 / 24 : ℝ) + (stepAngle - stepAngle ^ 3 / 6 : ℝ) * I : ℂ) -
      stepPoint = ((1 - stepAngle ^ 2 / 2 + stepAngle ^ 4 / 24 - stepCos / stepScale : ℝ) : ℂ) +
        ((stepAngle - stepAngle ^ 3 / 6 - stepSin / stepScale : ℝ) : ℂ) * I := by
    rw [stepPoint]; push_cast; ring
  rw [hparts]
  refine (norm_add_le _ _).trans (add_le_add ?_ ?_)
  · rwa [Complex.norm_real]
  · rwa [norm_mul, Complex.norm_I, mul_one, Complex.norm_real]

/-- The rational point is close to the table step's point of the circle. -/
theorem norm_exp_sub_stepPoint_le : ‖Complex.exp (stepAngle * I) - stepPoint‖ ≤ 1 / 10 ^ 12 := by
  obtain ⟨hlo, hhi⟩ := stepAngle_bounds
  have hpos : 0 ≤ stepAngle := by linarith
  have hseries := exp_mul_I_taylor stepAngle hpos (by linarith)
  have hrest : stepAngle ^ 5 / 60 ≤ 2 / 10 ^ 13 := by
    have hpower := pow_le_pow_left₀ hpos hhi.le 5
    norm_num at hpower ⊢
    linarith
  calc ‖Complex.exp (stepAngle * I) - stepPoint‖
    _ ≤ stepAngle ^ 5 / 60 + (2 / 10 ^ 13 + 2 / 10 ^ 13) :=
      (norm_sub_le_norm_sub_add_norm_sub _ _ _).trans (add_le_add hseries norm_taylor_sub_stepPoint_le)
    _ ≤ 1 / 10 ^ 12 := by linarith

/-- The rational point lies in the unit disc. -/
theorem norm_stepPoint_le : ‖stepPoint‖ ≤ 1 := by
  have hpoint : stepPoint = ((stepCos / stepScale : ℝ) : ℂ) + ((stepSin / stepScale : ℝ) : ℂ) * I := by
    rw [stepPoint]; push_cast; ring
  rw [hpoint, Complex.norm_add_mul_I, stepCos, stepSin, stepScale]
  exact Real.sqrt_le_one.mpr (by norm_num)

/-! ### Powers -/

/-- Powers of two points of the unit disc differ by at most as many steps as the power. -/
theorem norm_pow_sub_pow_le {z w : ℂ} (hz : ‖z‖ ≤ 1) (hw : ‖w‖ ≤ 1) (n : ℕ) : ‖z ^ n - w ^ n‖ ≤ n * ‖z - w‖ := by
  induction n with
  | zero => simp
  | succ n ih =>
    have hsplit : z ^ (n + 1) - w ^ (n + 1) = z ^ n * (z - w) + (z ^ n - w ^ n) * w := by ring
    have hpow : ‖z ^ n‖ ≤ 1 := by rw [norm_pow]; exact pow_le_one₀ (norm_nonneg _) hz
    calc ‖z ^ (n + 1) - w ^ (n + 1)‖
      _ ≤ ‖z ^ n‖ * ‖z - w‖ + ‖z ^ n - w ^ n‖ * ‖w‖ := by
        rw [hsplit, ← norm_mul, ← norm_mul]; exact norm_add_le _ _
      _ ≤ 1 * ‖z - w‖ + n * ‖z - w‖ * 1 := by gcongr
      _ = (n + 1 : ℕ) * ‖z - w‖ := by push_cast; ring

/-- The sine of `n` table steps is the imaginary part of the rational point's power, nearly. -/
theorem abs_sin_sub_im_pow_le (n : ℕ) : |Real.sin (n * stepAngle) - (stepPoint ^ n).im| ≤ n / 10 ^ 12 := by
  have hexp : Complex.exp (stepAngle * I) ^ n = Complex.exp ((n * stepAngle : ℝ) * I) := by
    rw [← Complex.exp_nat_mul]; push_cast; ring_nf
  have hsin : Real.sin (n * stepAngle) = (Complex.exp (stepAngle * I) ^ n).im := by
    rw [hexp, Complex.exp_ofReal_mul_I_im]
  rw [hsin, ← Complex.sub_im]
  calc |(Complex.exp (stepAngle * I) ^ n - stepPoint ^ n).im|
    _ ≤ ‖Complex.exp (stepAngle * I) ^ n - stepPoint ^ n‖ := Complex.abs_im_le_norm _
    _ ≤ n * ‖Complex.exp (stepAngle * I) - stepPoint‖ :=
      norm_pow_sub_pow_le (Complex.norm_exp_ofReal_mul_I _).le norm_stepPoint_le n
    _ ≤ n * (1 / 10 ^ 12) := by gcongr; exact norm_exp_sub_stepPoint_le
    _ = n / 10 ^ 12 := by ring

/-! ### The comparison with the table -/

/-- The entries of a list lie within 0.499 of 32767 times the heights of the points `(x, y) / d` turned by the rational
point once for each entry; all in integers. -/
def followsRotation (x y d : ℤ) : List ℕ → Bool
  | [] => true
  | q :: qs =>
    decide (1000 * |32767 * y - q * d| ≤ 499 * d) &&
      followsRotation (stepCos * x - stepSin * y) (stepSin * x + stepCos * y) (stepScale * d) qs

/-- What the check says of the powers of the rational point. -/
theorem followsRotation_sound {l : List ℕ} {x y d : ℤ} {n : ℕ} (h : followsRotation x y d l = true) (hd : 0 < d)
    (hpoint : (x + y * I : ℂ) = stepPoint ^ n * d) {j q : ℕ} (hj : l[j]? = some q) :
    |32767 * (stepPoint ^ (n + j)).im - q| ≤ 499 / 1000 := by
  induction l generalizing x y d n j with
  | nil => simp at hj
  | cons p l ih =>
    rw [followsRotation, Bool.and_eq_true, decide_eq_true_eq] at h
    obtain ⟨hhead, htail⟩ := h
    cases j with
    | zero =>
      obtain rfl : p = q := by simpa using hj
      have hdR : (0 : ℝ) < d := by exact_mod_cast hd
      have hy : (y : ℝ) = (stepPoint ^ n).im * d := by simpa using congrArg Complex.im hpoint
      have hheadR : 1000 * |32767 * (y : ℝ) - p * d| ≤ 499 * d := by exact_mod_cast hhead
      have hfactor : 32767 * (y : ℝ) - p * d = (32767 * (stepPoint ^ n).im - p) * d := by rw [hy]; ring
      rw [hfactor, abs_mul, abs_of_pos hdR, ← mul_assoc] at hheadR
      have hbound := le_of_mul_le_mul_right hheadR hdR
      rw [Nat.add_zero]
      linarith
    | succ j =>
      have hscale : (stepScale : ℂ) ≠ 0 := by norm_num [stepScale]
      have hturn : ((stepCos * x - stepSin * y : ℤ) + (stepSin * x + stepCos * y : ℤ) * I : ℂ) =
          stepPoint ^ (n + 1) * (stepScale * d : ℤ) := by
        have hproduct : stepPoint * stepScale = stepCos + stepSin * I := div_mul_cancel₀ _ hscale
        calc ((stepCos * x - stepSin * y : ℤ) + (stepSin * x + stepCos * y : ℤ) * I : ℂ)
          _ = (x + y * I) * (stepCos + stepSin * I) := by
            push_cast; linear_combination (-(stepSin : ℂ) * y) * Complex.I_sq
          _ = stepPoint ^ (n + 1) * (stepScale * d : ℤ) := by
            rw [hpoint, ← hproduct]; push_cast; ring
      have hnext := ih htail (mul_pos (by decide) hd) hturn (j := j) (by simpa using hj)
      rwa [Nat.add_right_comm, Nat.add_assoc] at hnext

/-- The printed table passes the check. -/
theorem romQuarter_followsRotation : followsRotation 1 0 1 romQuarter = true := by decide +kernel

/-- An entry of the printed quarter table is 32767 times the real sine, rounded (20_memory.md R47). -/
theorem abs_sin_sub_quarter_lt {j : ℕ} (hj : j ≤ 256) :
    |32767 * Real.sin (j * stepAngle) - (quarterEntry defaultConfig j : ℤ)| < 1 / 2 := by
  have hlen : romQuarter.length = 257 := by decide +kernel
  have hentry : romQuarter[j]? = some (romQuarter.getD j 0) := by
    rw [List.getD_eq_getElem _ _ (by omega), List.getElem?_eq_getElem]
  have htable := followsRotation_sound (n := 0) romQuarter_followsRotation (by decide) (by simp) hentry
  have hsin := abs_sin_sub_im_pow_le j
  have hjR : (j : ℝ) ≤ 256 := by exact_mod_cast hj
  have hquarter : ((quarterEntry defaultConfig j : ℤ) : ℝ) = (romQuarter.getD j 0 : ℕ) := rfl
  rw [Nat.zero_add] at htable
  rw [hquarter, abs_lt]
  obtain ⟨htlo, hthi⟩ := abs_le.mp htable
  obtain ⟨hslo, hshi⟩ := abs_le.mp hsin
  constructor <;> linarith

/-! ### From the quarter to the whole turn -/

/-- A quarter turn is 256 table steps. -/
theorem quarter_turn : 256 * stepAngle = Real.pi / 2 := by rw [stepAngle]; ring

/-- Every sine of the printed table is 32767 times the real one, rounded. -/
theorem abs_sin_sub_sinRom_lt (k : Index) :
    |32767 * Real.sin (k.toNat * stepAngle) - (sinRom defaultConfig k : ℤ)| < 1 / 2 := by
  have hquarter := quarter_turn
  have toNat_eq {n : ℕ} (hn : n < 1024) : (BitVec.ofNat 10 n).toNat = n := by rw [BitVec.toNat_ofNat]; omega
  have mirror {j : ℕ} (hj : j < 256) : ((256 - j : ℕ) : ℝ) * stepAngle = Real.pi / 2 - j * stepAngle := by
    rw [Nat.cast_sub hj.le]; push_cast; linarith
  obtain ⟨j, hj, rfl | rfl | rfl | rfl⟩ := index_cases k
  · rw [toNat_eq (by omega), sinRom_first _ hj.le]
    exact abs_sin_sub_quarter_lt hj.le
  · have hangle : Real.sin ((256 + j : ℕ) * stepAngle) = Real.sin ((256 - j : ℕ) * stepAngle) := by
      rw [mirror hj, ← Real.sin_pi_sub]
      congr 1; push_cast; linarith
    rw [toNat_eq (by omega), sinRom_second _ hj, hangle]
    exact abs_sin_sub_quarter_lt (by omega)
  · have hangle : Real.sin ((512 + j : ℕ) * stepAngle) = -Real.sin (j * stepAngle) := by
      rw [← Real.sin_add_pi]
      congr 1; push_cast; linarith
    rw [toNat_eq (by omega), sinRom_third _ hj, hangle, Int.cast_neg, mul_neg, ← neg_sub', abs_neg]
    exact abs_sin_sub_quarter_lt hj.le
  · have hangle : Real.sin ((768 + j : ℕ) * stepAngle) = -Real.sin ((256 - j : ℕ) * stepAngle) := by
      rw [mirror hj, ← Real.sin_two_pi_sub]
      congr 1; push_cast; linarith
    rw [toNat_eq (by omega), sinRom_fourth _ hj, hangle, Int.cast_neg, mul_neg, ← neg_sub', abs_neg]
    exact abs_sin_sub_quarter_lt (by omega)

/-- The sine a quarter turn on, modulo a whole turn, is the cosine. -/
theorem sin_index_add_quarter (k : Index) : Real.sin ((k + 256).toNat * stepAngle) = Real.cos (k.toNat * stepAngle) := by
  have hquarter := quarter_turn
  have hk := k.isLt
  have hsum : (k + 256).toNat = k.toNat + 256 ∨ (k + 256).toNat + 1024 = k.toNat + 256 := by
    have h256 : (256 : Index).toNat = 256 := rfl
    rw [BitVec.toNat_add, h256]; omega
  rw [← Real.sin_add_pi_div_two]
  obtain hsum | hsum := hsum
  · rw [hsum]
    congr 1; push_cast; linarith
  · have hreal : ((k + 256).toNat : ℝ) + 1024 = k.toNat + 256 := by exact_mod_cast hsum
    rw [← Real.sin_add_two_pi]
    congr 1
    linear_combination stepAngle * hreal - 3 * hquarter

end Sys2Proof.Machine
end

section
/-! CERTIFICATES. The printed table (20_memory.md section 4). -/

namespace Sys2Proof.Machine

/-- Settles O51: every entry by its quadrant, and the cosine as the sine a quarter turn on. -/
theorem printedTableIsRoundedSine : Obligations.PrintedTableIsRoundedSine := by
  intro k
  have angle (n : ℕ) : 2 * Real.pi * n / 1024 = n * stepAngle := by rw [stepAngle]; ring
  have hamp : (defaultConfig.amp : ℝ) = 32767 := by norm_num [defaultConfig]
  rw [angle, hamp]
  refine ⟨.inl ?_, .inl (abs_sin_sub_sinRom_lt k)⟩
  rw [← sin_index_add_quarter]
  exact abs_sin_sub_sinRom_lt (k + 256)

end Sys2Proof.Machine
end
